-- ==== Sys2Proof/Word.lean ====
section
/-!
DEFINITION. Words, bytes and the shapes they come in: the 16-byte block and the 4×4 byte matrix of
00_scope.md R8 to R10. Nothing here computes anything of the cipher.
-/

namespace Sys2Proof

/-- A byte: an unsigned 8-bit value, bit 7 the most significant (00_scope.md R8). -/
abbrev Byte := BitVec 8

/-- A bus data word or a control register: 32 bits (00_scope.md R7, REG_WIDTH). -/
abbrev Word := BitVec 32

/-- A byte offset in the register window: 12 bits (00_scope.md R7, OFFSET_WIDTH). -/
abbrev Offset := BitVec 12

/-- A block, a key or any 16-byte register: `b[0..15]` (00_scope.md R9). -/
abbrev Block := Vector Byte 16

/-- A State or a round key: a 4×4 byte matrix, `s[r][c]` (00_scope.md R10). -/
abbrev Mat := Vector (Vector Byte 4) 4

/-- A key schedule: 11 round keys, indices 0 to 10 (00_scope.md R7, NRK). -/
abbrev Schedule := Vector Mat 11

/-- The element `s[r][c]` (00_scope.md R10). -/
def Mat.at (s : Mat) (r c : Fin 4) : Byte := s[r][c]

/-- The matrix with `f r c` at row `r`, column `c`. -/
def Mat.of (f : Fin 4 → Fin 4 → Byte) : Mat := Vector.ofFn fun r => Vector.ofFn fun c => f r c

/-- The matrix of sixteen zero bytes. -/
def Mat.zero : Mat := Mat.of fun _ _ => 0#8

/-- The block of sixteen zero bytes. -/
def Block.zero : Block := Vector.replicate 16 0#8

/-- A schedule of eleven zero matrices. -/
def Schedule.zero : Schedule := Vector.replicate 11 Mat.zero

end Sys2Proof
end

