-- ==== Sys2Proof/Config.lean ====
section
/-!
DEFINITION. What the spec leaves open, as constants without a body, so that no proof can see a value.
-/

namespace Sys2Proof

/-- The `n`-th free byte: what a byte lane of a read returns where 20_memory.md R59 and
70_reset_and_hazards.md R292 say that the value is unspecified, a fresh draw for each read (log 6).
`n` is the count of lanes drawn before, `State.draws`. -/
opaque Config.freeByte : Nat → Byte

/-- BASE, the system address of offset 0x000: the platform's, open (00_scope.md R7; 20_memory.md R50; log 15). -/
opaque Config.windowBase : Nat

/-- The system address of a byte of the window (20_memory.md R50). -/
def Config.systemAddress (off : Offset) : Nat := Config.windowBase + off.toNat

end Sys2Proof
end

