-- ==== Sys2Proof/Syntax.lean ====
section
/-!
DEFINITION. The commands of spec/opcode_table.json, one constructor per row (30_encoding.md R85), with their fields.
-/

namespace Sys2Proof

/-- The two variants of a round transform (43_round_transforms.md R180). -/
inductive Direction
  | forward
  | inverse
deriving DecidableEq, Repr

/-- The twelve commands, with the fields each of them uses (30_encoding.md R85). -/
inductive Instr
  /-- ENCRYPT, OP 0x1 (44_cipher_pipeline.md R230). -/
  | encrypt (blen klen : BitVec 5)
  /-- DECRYPT, OP 0x2 (44_cipher_pipeline.md R231). -/
  | decrypt (blen klen : BitVec 5)
  /-- EXPAND_KEY, OP 0x3 (42_key_schedule.md R168). -/
  | expandKey (klen : BitVec 5)
  /-- ENCRYPT_RK, OP 0x4 (44_cipher_pipeline.md R232). -/
  | encryptRk (blen : BitVec 5)
  /-- DECRYPT_RK, OP 0x5 (44_cipher_pipeline.md R233). -/
  | decryptRk (blen : BitVec 5)
  /-- GF_MUL, OP 0x6 (40_gf_and_tables.md R119). -/
  | gfMul
  /-- LOAD_STATE, OP 0x7 (41_state_model.md R144). -/
  | loadState (blen : BitVec 5)
  /-- STORE_STATE, OP 0x8 (41_state_model.md R145). -/
  | storeState
  /-- SUB_BYTES, OP 0x9 (43_round_transforms.md R187). -/
  | subBytes (dir : Direction)
  /-- SHIFT_ROWS, OP 0xA (43_round_transforms.md R188). -/
  | shiftRows (dir : Direction)
  /-- MIX_COLUMNS, OP 0xB (43_round_transforms.md R189). -/
  | mixColumns (dir : Direction)
  /-- ADD_ROUND_KEY, OP 0xC (43_round_transforms.md R190). -/
  | addRoundKey (rnd : BitVec 4)
deriving DecidableEq, Repr

/-- The five fields of a command word (30_encoding.md R81). -/
structure Fields where
  op : BitVec 4
  dir : BitVec 1
  rnd : BitVec 4
  blen : BitVec 5
  klen : BitVec 5
deriving DecidableEq, Repr

/-- Why a word is no command: the four cases of 30_encoding.md R87. -/
inductive DecodeError
  /-- R87 case 1: OP is 0x0, 0xD, 0xE or 0xF. -/
  | unassignedOp
  /-- R87 case 2: a reserved bit is 1. -/
  | reservedBit
  /-- R87 case 3: a field that the OP does not use is non-zero. -/
  | unusedField
  /-- R87 case 4: ADD_ROUND_KEY with RND above 10. -/
  | roundKeyIndex
deriving DecidableEq, Repr

end Sys2Proof
end

