-- ==== Sys2Proof/Machine/State.lean ====
section
/-!
DEFINITION. The state of the core and of what stands around it, as plain data, the state after reset, and the reasons
a step can stop.
-/

namespace Sys2Proof.Machine

/-- The command error codes held in STATUS.ERRCODE (60_exceptions.md R261). -/
inductive ErrCode
  /-- 0, NONE. -/
  | noError
  /-- 1, INVALID_LENGTH (R262). -/
  | invalidLength
  /-- 2, ILLEGAL_COMMAND (R263). -/
  | illegalCommand
  /-- 3, NO_SCHEDULE (R264). -/
  | noSchedule
deriving DecidableEq, Repr

/-- A trace event: 16 label bits and a 16-byte snapshot (44_cipher_pipeline.md R226). -/
structure TraceEvent where
  label : BitVec 16
  snapshot : Block
deriving DecidableEq, Repr

/-- The size of a bus access: 1, 2 or 4 bytes (20_memory.md R51). -/
inductive Size
  | b1
  | b2
  | b4
deriving DecidableEq, Repr

/-- The bus response (20_memory.md R51). -/
inductive Resp
  | okay
  | slverr
deriving DecidableEq, Repr

/-- What a transaction returned: the response and the data word, byte k of the data in bits 8k+7 to 8k
(20_memory.md R51 and R53). The data of a write, and of a failed read, is 0. -/
structure BusReply where
  resp : Resp
  data : Word
deriving DecidableEq, Repr

/-- One step of one agent (10_state.md R20). -/
inductive Move
  /-- The host reads `size` bytes at `off` (20_memory.md R51). -/
  | busRead (off : Offset) (size : Size)
  /-- The host writes the low `size` bytes of `data` at `off` (20_memory.md R51; log 13). -/
  | busWrite (off : Offset) (size : Size) (data : Word)
  /-- The core takes its next step of the command in flight (30_encoding.md R91, 44_cipher_pipeline.md R227). -/
  | core
  /-- The trace sink accepts the event in TQ (44_cipher_pipeline.md R229). -/
  | sink
  /-- Reset is asserted (70_reset_and_hazards.md R290). -/
  | reset
deriving DecidableEq, Repr

/-- The internal working values of a command (10_state.md R34, `scratch`; log 9). -/
structure Scratch where
  /-- The working State. -/
  st : Mat
  /-- The working round keys. -/
  rk : Schedule
  /-- The PH bit of the next trace event: `false` before the transform of step `seq`, `true` after it. -/
  ph : Bool
deriving DecidableEq, Repr

/-- Everything the spec gives the machine (10_state.md R23, R34), and at the end what stands around it. -/
structure State where
  /-- CMD: the command word written last (R24). -/
  cmd : Word
  /-- CONFIG.IE (R25). -/
  ie : Bool
  /-- CONFIG.TE (R25). -/
  te : Bool
  /-- STATUS.BUSY (R26). -/
  busy : Bool
  /-- STATUS.DONE (R26). -/
  done : Bool
  /-- STATUS.ERR (R26). -/
  err : Bool
  /-- STATUS.SV: the RK store holds a complete schedule (R26, R32). -/
  sv : Bool
  /-- STATUS.ERRCODE (R26). -/
  errcode : ErrCode
  /-- GF.A (R27). -/
  gfA : Byte
  /-- GF.B (R27). -/
  gfB : Byte
  /-- GF.P (R27). -/
  gfP : Byte
  /-- KEY (R28). -/
  key : Block
  /-- DIN (R29). -/
  din : Block
  /-- DOUT (R30). -/
  dout : Block
  /-- STATE (R31). -/
  st : Mat
  /-- RK, the round-key store (R32). -/
  rk : Schedule
  /-- LCMD: the command word accepted last (R34). -/
  lcmd : Word
  /-- LTE: CONFIG.TE at that acceptance (R34). -/
  lte : Bool
  /-- seq: the pipeline step index, 0 to 40 (R34; 44_cipher_pipeline.md R225). -/
  seq : Nat
  /-- TQ: the trace event emitted and not yet accepted (R34; 44_cipher_pipeline.md R229). -/
  tq : Option TraceEvent
  /-- scratch: the working values of a command (R34). -/
  scratch : Scratch
  /-- The trace sink: the events it has accepted, oldest first (44_cipher_pipeline.md R229). -/
  delivered : List TraceEvent
  /-- The host: the bus replies it has received, oldest first (20_memory.md R51; log 14). -/
  replies : List BusReply
  /-- The agents' moves still to come, the next first (10_state.md R20; log 1). -/
  moves : List Move
  /-- How many free bytes have been drawn: the model's own field (log 6). -/
  draws : Nat
deriving DecidableEq, Repr

/-- The scratch values at reset, which 10_state.md R34 leaves unspecified: zero (log 8). -/
def Scratch.reset : Scratch where
  st := Mat.zero
  rk := Schedule.zero
  ph := false

/-- The machine right after reset (70_reset_and_hazards.md R290). RK is unspecified there (R292) and never read while
SV = 0; the field holds zeros (log 7). Around the core: no reply, no accepted event, no move listed. -/
def State.reset : State where
  cmd := 0#32
  ie := false
  te := false
  busy := false
  done := false
  err := false
  sv := false
  errcode := .noError
  gfA := 0#8
  gfB := 0#8
  gfP := 0#8
  key := Block.zero
  din := Block.zero
  dout := Block.zero
  st := Mat.zero
  rk := Schedule.zero
  lcmd := 0#32
  lte := false
  seq := 0
  tq := none
  scratch := Scratch.reset
  delivered := []
  replies := []
  moves := []
  draws := 0

/-- Why a step can end in a fault. The core itself takes no traps (60_exceptions.md R271): command errors and bus
errors are next states. -/
inductive Fault
  /-- BUSY = 1 while the command in flight is no legal command (30_encoding.md R87), so that no rule gives the core a
  step. Raised by the core's step, and by ADD_ROUND_KEY in flight with RND above 10. SAFE: acceptance needs a legal
  word (30_encoding.md R89), so no run from reset reaches it (log 12). -/
  | noCommandInFlight
deriving DecidableEq, Repr

/-- Why an instruction has no meaning in the model. -/
inductive Refusal
  /-- The instruction is not modelled. Raised by an arm of `exec`, by name; no arm raises it now. SAFE. -/
  | notModelled (mnemonic : String)
deriving DecidableEq, Repr

end Sys2Proof.Machine
end

