-- ==== Sys2Proof/Machine/Codec.lean ====
section
/-!
DEFINITION. The codec between a block and a State matrix (41_state_model.md R140, R141).
-/

namespace Sys2Proof.Machine

/-- `decode(b)`: column-major placement, `s[r][c] = b[r + 4·c]` (41_state_model.md R140). -/
def decodeBlock (b : Block) : Mat := Mat.of fun r c => b[r.val + 4 * c.val]

/-- `encode(s)`: `b[i] = s[i mod 4][i div 4]` (41_state_model.md R141). -/
def encodeState (s : Mat) : Block :=
  Vector.ofFn fun i => s.at ⟨i.val % 4, by omega⟩ ⟨i.val / 4, by omega⟩

end Sys2Proof.Machine
end

