-- ==== Sys2Proof/Machine/KeySchedule.lean ====
section
/-!
DEFINITION. The key schedule expansion `expand(key)` (42_key_schedule.md R160 to R166).
-/

namespace Sys2Proof.Machine

/-- The transformed word t of the round whose constant is `RCON[i]`: the last column of `p`, rotated up by one,
substituted, and its first byte XORed with the constant (42_key_schedule.md R161 to R163). -/
def scheduleWord (i : Fin 10) (p : Mat) (r : Fin 4) : Byte :=
  if r = 0 then sbox (p.at (r + 1) 3) ^^^ rcon i else sbox (p.at (r + 1) 3)

/-- Row `r` of column `c` of the new round key: column 0 from t, each further one from the column just computed
(42_key_schedule.md R164 and R165). -/
def scheduleColumn (p : Mat) (t : Fin 4 → Byte) (r : Fin 4) : Nat → Byte
  | 0 => p.at r 0 ^^^ t r
  | c + 1 => p.at r (Fin.ofNat 4 (c + 1)) ^^^ scheduleColumn p t r c

/-- The round key after `p`, with the constant `RCON[i]` (42_key_schedule.md R161 to R165). -/
def nextRoundKey (i : Fin 10) (p : Mat) : Mat := Mat.of fun r c => scheduleColumn p (scheduleWord i p) r c.val

/-- Round key `i` of the key: `RK[0] = decode(key)`, and `RK[i + 1]` from `RK[i]` with `RCON[i]`
(42_key_schedule.md R160 and R166). -/
def roundKey (key : Block) : Nat → Mat
  | 0 => decodeBlock key
  | i + 1 => nextRoundKey (Fin.ofNat 10 i) (roundKey key i)

/-- `expand(key)`: the 11 round keys (42_key_schedule.md R166). -/
def expand (key : Block) : Schedule := Vector.ofFn fun i => roundKey key i.val

end Sys2Proof.Machine
end

