-- ==== Sys2Proof/Machine/Galois.lean ====
section
/-!
DEFINITION. The GF(2^8) multiplier (40_gf_and_tables.md R110).
-/

namespace Sys2Proof.Machine

/-- The loop of R110: `n` more iterations on `a`, `b` and the product so far. -/
def gmulLoop : Nat → Byte → Byte → Byte → Byte
  | 0, _, _, p => p
  | n + 1, a, b, p =>
    gmulLoop n
      (if a.getLsbD 7 then (a <<< 1) ^^^ 0x1B#8 else a <<< 1)
      (b >>> 1)
      (if b.getLsbD 0 then p ^^^ a else p)

/-- `gmul(a, b)`: the product in GF(2^8), reduced by x^8+x^4+x^3+x+1 (40_gf_and_tables.md R110). -/
def gmul (a b : Byte) : Byte := gmulLoop 8 a b 0x00#8

end Sys2Proof.Machine
end

