-- ==== Sys2Proof/Machine/Transforms.lean ====
section
/-!
DEFINITION. The four round transforms, pure functions from State to State (43_round_transforms.md R181 to R185).
-/

namespace Sys2Proof.Machine

/-- SubBytes: each byte through the table of the direction (43_round_transforms.md R181). -/
def subBytes : Direction → Mat → Mat
  | .forward, s => Mat.of fun r c => sbox (s.at r c)
  | .inverse, s => Mat.of fun r c => invSbox (s.at r c)

/-- ShiftRows: row r rotated left by r (Forward) or right by r (Inverse); indices are modulo 4
(43_round_transforms.md R182). -/
def shiftRows : Direction → Mat → Mat
  | .forward, s => Mat.of fun r c => s.at r (c + r)
  | .inverse, s => Mat.of fun r c => s.at r (c - r)

/-- The matrix M of MixColumns Forward (43_round_transforms.md R183). -/
def mixMatrix : Mat :=
  #v[#v[0x02#8, 0x03#8, 0x01#8, 0x01#8],
     #v[0x01#8, 0x02#8, 0x03#8, 0x01#8],
     #v[0x01#8, 0x01#8, 0x02#8, 0x03#8],
     #v[0x03#8, 0x01#8, 0x01#8, 0x02#8]]

/-- The matrix M_inv of MixColumns Inverse (43_round_transforms.md R184). -/
def mixMatrixInv : Mat :=
  #v[#v[0x0E#8, 0x0B#8, 0x0D#8, 0x09#8],
     #v[0x09#8, 0x0E#8, 0x0B#8, 0x0D#8],
     #v[0x0D#8, 0x09#8, 0x0E#8, 0x0B#8],
     #v[0x0B#8, 0x0D#8, 0x09#8, 0x0E#8]]

/-- Each column of `s` times the matrix `m` over GF(2^8) (43_round_transforms.md R183). -/
def mixWith (m s : Mat) : Mat :=
  Mat.of fun r c =>
    gmul (m.at r 0) (s.at 0 c) ^^^ gmul (m.at r 1) (s.at 1 c) ^^^ gmul (m.at r 2) (s.at 2 c) ^^^ gmul (m.at r 3) (s.at 3 c)

/-- MixColumns (43_round_transforms.md R183 and R184). -/
def mixColumns : Direction → Mat → Mat
  | .forward, s => mixWith mixMatrix s
  | .inverse, s => mixWith mixMatrixInv s

/-- AddRoundKey: the bytewise XOR with a round key (43_round_transforms.md R185). -/
def addRoundKey (s k : Mat) : Mat := Mat.of fun r c => s.at r c ^^^ k.at r c

end Sys2Proof.Machine
end

