-- ==== Sys2Proof/Machine/Cipher.lean ====
section
/-!
DEFINITION. The cipher functions Encrypt and Decrypt, the step tables of the sequencer, and the trace events
(44_cipher_pipeline.md R220 to R227).
-/

namespace Sys2Proof.Machine

/-- Round `round` of 1..9 of Encrypt (44_cipher_pipeline.md R220). -/
def encryptRound (rk : Schedule) (s : Mat) (round : Fin 11) : Mat :=
  addRoundKey (mixColumns .forward (shiftRows .forward (subBytes .forward s))) rk[round]

/-- `Encrypt(block, RK)` (44_cipher_pipeline.md R220). -/
def encryptBlock (block : Block) (rk : Schedule) : Block :=
  let first := addRoundKey (decodeBlock block) rk[0]
  let rounds := [1, 2, 3, 4, 5, 6, 7, 8, 9].foldl (encryptRound rk) first
  encodeState (addRoundKey (shiftRows .forward (subBytes .forward rounds)) rk[10])

/-- Round `round` of 9 down to 1 of Decrypt: MixColumns Inverse comes after AddRoundKey (44_cipher_pipeline.md R221). -/
def decryptRound (rk : Schedule) (s : Mat) (round : Fin 11) : Mat :=
  mixColumns .inverse (addRoundKey (subBytes .inverse (shiftRows .inverse s)) rk[round])

/-- `Decrypt(block, RK)` (44_cipher_pipeline.md R221). -/
def decryptBlock (block : Block) (rk : Schedule) : Block :=
  let first := addRoundKey (decodeBlock block) rk[10]
  let rounds := [9, 8, 7, 6, 5, 4, 3, 2, 1].foldl (decryptRound rk) first
  encodeState (addRoundKey (subBytes .inverse (shiftRows .inverse rounds)) rk[0])

/-- Which of the two ciphers a pipeline command runs: the CDIR of a trace label (44_cipher_pipeline.md R226). -/
inductive Cipher
  | encrypt
  | decrypt
deriving DecidableEq, Repr

/-- The transforms, in the order of their XF codes (44_cipher_pipeline.md R226). -/
inductive Transform
  | subBytes
  | shiftRows
  | mixColumns
  | addRoundKey
deriving DecidableEq, Repr

/-- A row of a step table: the stage and the transform; the direction is the cipher's (44_cipher_pipeline.md R223). -/
structure PipeStep where
  stage : Fin 11
  xf : Transform
deriving DecidableEq, Repr

/-- The four steps of round `r` of the encryption (44_cipher_pipeline.md R223). -/
def encryptRoundSteps (r : Fin 11) : List PipeStep :=
  [⟨r, .subBytes⟩, ⟨r, .shiftRows⟩, ⟨r, .mixColumns⟩, ⟨r, .addRoundKey⟩]

/-- The four steps of stage `r` of the decryption (44_cipher_pipeline.md R224). -/
def decryptRoundSteps (r : Fin 11) : List PipeStep :=
  [⟨r, .shiftRows⟩, ⟨r, .subBytes⟩, ⟨r, .addRoundKey⟩, ⟨r, .mixColumns⟩]

/-- The 40 steps of a pipeline command, step k at position k (44_cipher_pipeline.md R223 and R224). -/
def stepTable : Cipher → List PipeStep
  | .encrypt =>
    [⟨0, .addRoundKey⟩] ++ [1, 2, 3, 4, 5, 6, 7, 8, 9].flatMap encryptRoundSteps
      ++ [⟨10, .subBytes⟩, ⟨10, .shiftRows⟩, ⟨10, .addRoundKey⟩]
  | .decrypt =>
    [⟨10, .addRoundKey⟩] ++ [9, 8, 7, 6, 5, 4, 3, 2, 1].flatMap decryptRoundSteps
      ++ [⟨0, .shiftRows⟩, ⟨0, .subBytes⟩, ⟨0, .addRoundKey⟩]

/-- The direction of the transforms of a cipher (44_cipher_pipeline.md R223 and R224). -/
def Cipher.direction : Cipher → Direction
  | .encrypt => .forward
  | .decrypt => .inverse

/-- One step of a step table applied to a State (44_cipher_pipeline.md R223 and R224). -/
def applyStep (c : Cipher) (rk : Schedule) (s : Mat) (p : PipeStep) : Mat :=
  match p.xf with
  | .subBytes => subBytes c.direction s
  | .shiftRows => shiftRows c.direction s
  | .mixColumns => mixColumns c.direction s
  | .addRoundKey => addRoundKey s rk[p.stage]

/-- `s_k` of 44_cipher_pipeline.md R227: the State after the first `k` steps, from `s_0 = decode(block)`. -/
def stateAfter (c : Cipher) (rk : Schedule) (block : Block) (k : Nat) : Mat :=
  ((stepTable c).take k).foldl (applyStep c rk) (decodeBlock block)

/-- The XF code of a transform (44_cipher_pipeline.md R226). -/
def Transform.code : Transform → BitVec 2
  | .subBytes => 0
  | .shiftRows => 1
  | .mixColumns => 2
  | .addRoundKey => 3

/-- The CDIR bit of a cipher (44_cipher_pipeline.md R226). -/
def Cipher.bit : Cipher → BitVec 1
  | .encrypt => 0
  | .decrypt => 1

/-- The label of a trace event: zero bits 15:8, CDIR, PH, XF, STAGE (44_cipher_pipeline.md R226). -/
def traceLabel (c : Cipher) (p : PipeStep) (ph : Bool) : BitVec 16 :=
  0#8 ++ c.bit ++ BitVec.ofBool ph ++ p.xf.code ++ BitVec.ofNat 4 p.stage.val

/-- The two events of step `k` with table row `p`: before the transform and after it (44_cipher_pipeline.md R227). -/
def stepEvents (c : Cipher) (rk : Schedule) (block : Block) (p : PipeStep) (k : Nat) : List TraceEvent :=
  [⟨traceLabel c p false, encodeState (stateAfter c rk block k)⟩,
   ⟨traceLabel c p true, encodeState (stateAfter c rk block (k + 1))⟩]

/-- The events of a traced pipeline command, in emission order (44_cipher_pipeline.md R227). -/
def traceEvents (c : Cipher) (rk : Schedule) (block : Block) : List TraceEvent :=
  (stepTable c).zipIdx.flatMap fun pk => stepEvents c rk block pk.1 pk.2

end Sys2Proof.Machine
end

