-- ==== Sys2Proof/Machine/Flags.lean ====
section
/-!
DEFINITION. The flags of STATUS, the IRQ line and the words that the control registers read as (10_state.md R25 to R27,
R36; 60_exceptions.md R269). No command computes a flag from data (R36).
-/

namespace Sys2Proof.Machine

/-- The bits of an error code (60_exceptions.md R261). -/
def ErrCode.bits : ErrCode → BitVec 4
  | .noError => 0
  | .invalidLength => 1
  | .illegalCommand => 2
  | .noSchedule => 3

/-- The IRQ line, and STATUS.IRQ: IE and (DONE or ERR), at every moment (60_exceptions.md R269). -/
def State.irq (s : State) : Bool := s.ie && (s.done || s.err)

/-- The STATUS word: bits 31:9 zero, IRQ, ERRCODE, SV, ERR, DONE, BUSY (10_state.md R26). -/
def State.statusWord (s : State) : Word :=
  0#23 ++ BitVec.ofBool s.irq ++ s.errcode.bits ++ BitVec.ofBool s.sv ++ BitVec.ofBool s.err ++ BitVec.ofBool s.done
    ++ BitVec.ofBool s.busy

/-- The CONFIG word: bits 31:2 zero, TE, IE (10_state.md R25). -/
def State.configWord (s : State) : Word := 0#30 ++ BitVec.ofBool s.te ++ BitVec.ofBool s.ie

/-- The GF word: bits 31:24 zero, P, B, A (10_state.md R27). -/
def State.gfWord (s : State) : Word := 0#8 ++ s.gfP ++ s.gfB ++ s.gfA

/-- DONE becomes 0 (10_state.md R26). -/
def clearDone (s : State) : State := { s with done := false }

/-- ERR becomes 0, and ERRCODE with it (10_state.md R26). -/
def clearErr (s : State) : State := { s with err := false, errcode := .noError }

end Sys2Proof.Machine
end

