-- ==== Sys2Proof/WellFormed.lean ====
section
/-!
DEFINITION. Which terms of `Instr` stand for a legal command word.
-/

namespace Sys2Proof

/-- A term is well formed when its fields are legal: RND is 0 to 10 (30_encoding.md R83 and R87 case 4).
A BLEN or KLEN other than 16 is a legal word; its failure is INVALID_LENGTH at dispatch (60_exceptions.md R262). -/
def Instr.wellFormed : Instr → Bool
  | .encrypt _ _ => true
  | .decrypt _ _ => true
  | .expandKey _ => true
  | .encryptRk _ => true
  | .decryptRk _ => true
  | .gfMul => true
  | .loadState _ => true
  | .storeState => true
  | .subBytes _ => true
  | .shiftRows _ => true
  | .mixColumns _ => true
  | .addRoundKey rnd => decide (rnd.toNat ≤ 10)

end Sys2Proof
end

