-- ==== Sys2Proof/Decode.lean ====
section
/-!
DEFINITION. The decoder, total on all 2^32 words and rejecting by name, and after it the encoder, both from
30_encoding.md R81 to R87.
-/

namespace Sys2Proof

/-- The fields of a command word (30_encoding.md R81). -/
def fieldsOf (w : Word) : Fields where
  op := w.extractLsb' 0 4
  dir := w.extractLsb' 4 1
  rnd := w.extractLsb' 8 4
  blen := w.extractLsb' 16 5
  klen := w.extractLsb' 24 5

/-- The reserved bits 31:29, 23:21, 15:12 and 7:5 (30_encoding.md R81). -/
def reservedMask : Word := 0xE0E0F0E0#32

/-- DIR is 0 for Forward and 1 for Inverse (30_encoding.md R82). -/
def directionOf (b : BitVec 1) : Direction := if b = 0#1 then .forward else .inverse

/-- The instruction if the unused fields are zero, else the rejection of R87 case 3. -/
def whenUnusedZero (unusedZero : Bool) (i : Instr) : Except DecodeError Instr :=
  if unusedZero then .ok i else .error .unusedField

/-- The command with the fields `f`, reserved bits aside (30_encoding.md R85 and R87). -/
def decodeFields (f : Fields) : Except DecodeError Instr :=
  match f.op.toNat with
  | 0x1 => whenUnusedZero (f.dir = 0 && f.rnd = 0) (.encrypt f.blen f.klen)
  | 0x2 => whenUnusedZero (f.dir = 0 && f.rnd = 0) (.decrypt f.blen f.klen)
  | 0x3 => whenUnusedZero (f.dir = 0 && f.rnd = 0 && f.blen = 0) (.expandKey f.klen)
  | 0x4 => whenUnusedZero (f.dir = 0 && f.rnd = 0 && f.klen = 0) (.encryptRk f.blen)
  | 0x5 => whenUnusedZero (f.dir = 0 && f.rnd = 0 && f.klen = 0) (.decryptRk f.blen)
  | 0x6 => whenUnusedZero (f.dir = 0 && f.rnd = 0 && f.blen = 0 && f.klen = 0) .gfMul
  | 0x7 => whenUnusedZero (f.dir = 0 && f.rnd = 0 && f.klen = 0) (.loadState f.blen)
  | 0x8 => whenUnusedZero (f.dir = 0 && f.rnd = 0 && f.blen = 0 && f.klen = 0) .storeState
  | 0x9 => whenUnusedZero (f.rnd = 0 && f.blen = 0 && f.klen = 0) (.subBytes (directionOf f.dir))
  | 0xA => whenUnusedZero (f.rnd = 0 && f.blen = 0 && f.klen = 0) (.shiftRows (directionOf f.dir))
  | 0xB => whenUnusedZero (f.rnd = 0 && f.blen = 0 && f.klen = 0) (.mixColumns (directionOf f.dir))
  | 0xC =>
    if f.rnd.toNat ≤ 10 then whenUnusedZero (f.dir = 0 && f.blen = 0 && f.klen = 0) (.addRoundKey f.rnd)
    else .error .roundKeyIndex
  | _ => .error .unassignedOp

/-- The command a word stands for, or why it is illegal (30_encoding.md R87: every one of the 2^32 words is one of
the legal forms or illegal). -/
def decode (w : Word) : Except DecodeError Instr :=
  if w &&& reservedMask = 0#32 then decodeFields (fieldsOf w) else .error .reservedBit

/-- The word with these fields and every reserved bit 0: `rrrKKKKKrrrBBBBBrrrrNNNNrrrDOOOO` (30_encoding.md R81). -/
def assemble (f : Fields) : Word :=
  0#3 ++ f.klen ++ 0#3 ++ f.blen ++ 0#4 ++ f.rnd ++ 0#3 ++ f.dir ++ f.op

/-- The DIR bit of a direction (30_encoding.md R82). -/
def Direction.bit : Direction → BitVec 1
  | .forward => 0#1
  | .inverse => 1#1

/-- The fields of a command; every field it does not use is 0 (30_encoding.md R85). -/
def Instr.fields : Instr → Fields
  | .encrypt blen klen => ⟨0x1, 0, 0, blen, klen⟩
  | .decrypt blen klen => ⟨0x2, 0, 0, blen, klen⟩
  | .expandKey klen => ⟨0x3, 0, 0, 0, klen⟩
  | .encryptRk blen => ⟨0x4, 0, 0, blen, 0⟩
  | .decryptRk blen => ⟨0x5, 0, 0, blen, 0⟩
  | .gfMul => ⟨0x6, 0, 0, 0, 0⟩
  | .loadState blen => ⟨0x7, 0, 0, blen, 0⟩
  | .storeState => ⟨0x8, 0, 0, 0, 0⟩
  | .subBytes dir => ⟨0x9, dir.bit, 0, 0, 0⟩
  | .shiftRows dir => ⟨0xA, dir.bit, 0, 0, 0⟩
  | .mixColumns dir => ⟨0xB, dir.bit, 0, 0, 0⟩
  | .addRoundKey rnd => ⟨0xC, 0, rnd, 0, 0⟩

/-- The word of a command (30_encoding.md R81 and R85). -/
def encode (i : Instr) : Word := assemble i.fields

/-- The match and mask of each row of 30_encoding.md R86, in its order. -/
def opRows : List (Word × Word) :=
  [(0x00000001#32, 0xE0E0FFFF#32), (0x00000002#32, 0xE0E0FFFF#32), (0x00000003#32, 0xE0FFFFFF#32),
   (0x00000004#32, 0xFFE0FFFF#32), (0x00000005#32, 0xFFE0FFFF#32), (0x00000006#32, 0xFFFFFFFF#32),
   (0x00000007#32, 0xFFE0FFFF#32), (0x00000008#32, 0xFFFFFFFF#32), (0x00000009#32, 0xFFFFFFEF#32),
   (0x0000000A#32, 0xFFFFFFEF#32), (0x0000000B#32, 0xFFFFFFEF#32), (0x0000000C#32, 0xFFFFF0FF#32)]

/-- `legal(w)`: w matches a row of R86 and, for ADD_ROUND_KEY, w[11:8] ≤ 10 (30_encoding.md R88). -/
def legal (w : Word) : Bool :=
  opRows.any (fun row => w &&& row.2 = row.1) && ((fieldsOf w).op ≠ 0xC || (fieldsOf w).rnd.toNat ≤ 10)

/-- The command that the decoder reads from a table row's word of `nbits` bits, bit 0 the least significant; every
bit at or above `nbits` is 0. A command is one 32-bit word (30_encoding.md R80), so there are no further words. -/
def decodeTableWord (nbits w : Nat) : Option Instr :=
  (decode (BitVec.ofNat 32 (w % 2 ^ nbits))).toOption

end Sys2Proof
end

