-- ==== Sys2Proof/Machine/Operands.lean ====
section
/-!
DEFINITION. The operands of a command: the declared lengths, the round-key index, the schedule a command uses, and the
predicates of dispatch (30_encoding.md R82 to R88; 60_exceptions.md R262 to R265).
-/

namespace Sys2Proof.Machine

/-- The BLEN field, for the commands that use it: `uses_blen` of 30_encoding.md R88. -/
def blenOf : Instr → Option (BitVec 5)
  | .encrypt blen _ => some blen
  | .decrypt blen _ => some blen
  | .expandKey _ => none
  | .encryptRk blen => some blen
  | .decryptRk blen => some blen
  | .gfMul => none
  | .loadState blen => some blen
  | .storeState => none
  | .subBytes _ => none
  | .shiftRows _ => none
  | .mixColumns _ => none
  | .addRoundKey _ => none

/-- The KLEN field, for the commands that use it: `uses_klen` of 30_encoding.md R88. -/
def klenOf : Instr → Option (BitVec 5)
  | .encrypt _ klen => some klen
  | .decrypt _ klen => some klen
  | .expandKey klen => some klen
  | .encryptRk _ => none
  | .decryptRk _ => none
  | .gfMul => none
  | .loadState _ => none
  | .storeState => none
  | .subBytes _ => none
  | .shiftRows _ => none
  | .mixColumns _ => none
  | .addRoundKey _ => none

/-- `needs_sched`: the command reads the RK store as it stands (30_encoding.md R88). -/
def needsSched : Instr → Bool
  | .encryptRk _ => true
  | .decryptRk _ => true
  | .addRoundKey _ => true
  | .encrypt _ _ => false
  | .decrypt _ _ => false
  | .expandKey _ => false
  | .gfMul => false
  | .loadState _ => false
  | .storeState => false
  | .subBytes _ => false
  | .shiftRows _ => false
  | .mixColumns _ => false

/-- `writes_sched`: the command overwrites the RK store (30_encoding.md R88). -/
def writesSched : Instr → Bool
  | .encrypt _ _ => true
  | .decrypt _ _ => true
  | .expandKey _ => true
  | .encryptRk _ => false
  | .decryptRk _ => false
  | .gfMul => false
  | .loadState _ => false
  | .storeState => false
  | .subBytes _ => false
  | .shiftRows _ => false
  | .mixColumns _ => false
  | .addRoundKey _ => false

/-- `is_pipeline`: the command runs the 40 transform steps (30_encoding.md R88). -/
def isPipeline : Instr → Bool
  | .encrypt _ _ => true
  | .decrypt _ _ => true
  | .encryptRk _ => true
  | .decryptRk _ => true
  | .expandKey _ => false
  | .gfMul => false
  | .loadState _ => false
  | .storeState => false
  | .subBytes _ => false
  | .shiftRows _ => false
  | .mixColumns _ => false
  | .addRoundKey _ => false

/-- A declared length is wrong when the command has one and it is not 16 (60_exceptions.md R262). -/
def wrongLength : Option (BitVec 5) → Bool
  | some len => decide (len.toNat ≠ 16)
  | none => false

/-- The error of a command at dispatch, if any, with SV as given: ILLEGAL_COMMAND, then INVALID_LENGTH for the block and
then the key, then NO_SCHEDULE (30_encoding.md R89; 60_exceptions.md R265). -/
def commandError (i : Instr) (sv : Bool) : Option ErrCode :=
  if !i.wellFormed then some .illegalCommand
  else if wrongLength (blenOf i) then some .invalidLength
  else if wrongLength (klenOf i) then some .invalidLength
  else if needsSched i && !sv then some .noSchedule
  else none

/-- `RK[zext_8(RND)]` (30_encoding.md R83; 43_round_transforms.md R190); none for RND above 10. -/
def roundKeyAt (rnd : BitVec 4) (rk : Schedule) : Option Mat := rk[rnd.toNat]?

/-- The schedule a command works with: RK' = expand(KEY), or the RK store (44_cipher_pipeline.md R230 to R233). -/
def scheduleOf (i : Instr) (s : State) : Schedule := if writesSched i then expand s.key else s.rk

end Sys2Proof.Machine
end

