-- ==== Sys2Proof/Machine/Ops.lean ====
section
/-!
DEFINITION. The shared operations: the command error and its clearing, dispatch, acceptance, completion, the emission
and acceptance of trace events, and the reset event.
-/

namespace Sys2Proof.Machine

/-! ### The command error: the core's one exception, and the return from it -/

/-- `raise CmdError(code)`: ERR and ERRCODE record the cause, nothing else changes (60_exceptions.md R266). The core has
no saved pc, status, mode or vector (R271). -/
def raiseCmdError (code : ErrCode) (s : State) : State := { s with err := true, errcode := code }

/-- The outcome of the command before is cleared: DONE, ERR and ERRCODE become 0. Every CMD write that is not refused
does so (30_encoding.md R89); it is the nearest the core has to a return (60_exceptions.md R272). -/
def clearOutcome (s : State) : State := clearErr (clearDone s)

/-! ### Dispatch, acceptance, completion -/

/-- The scratch values with which an accepted command starts: a pipeline command from `s_0 = decode(DIN)` and its
schedule, since the key expansion is done before step 0 (44_cipher_pipeline.md R225, R227; log 9). -/
def acceptScratch (i : Instr) (s : State) : Scratch :=
  if isPipeline i then { st := decodeBlock s.din, rk := scheduleOf i s, ph := false } else s.scratch

/-- `accept(w)`, with w the word of `i` (30_encoding.md R90). -/
def accept (i : Instr) (s : State) : State :=
  { s with
    lcmd := encode i
    lte := s.te
    seq := 0
    tq := none
    busy := true
    sv := if writesSched i then false else s.sv
    scratch := acceptScratch i s }

/-- The dispatch of a command at BUSY = 0, after CMD has been written: the outcome before is cleared, then the first
error is raised, or the command is accepted (30_encoding.md R89). -/
def dispatchCommand (i : Instr) (s : State) : State :=
  match commandError i s.sv with
  | some code => raiseCmdError code (clearOutcome s)
  | none => accept i (clearOutcome s)

/-- The end of every completion: BUSY becomes 0 and DONE 1 (30_encoding.md R91). -/
def complete (s : State) : State := { s with busy := false, done := true }

/-- The two phases of a command `i`: at BUSY = 0 its dispatch, at BUSY = 1 the core's step for it (log 11). -/
def runPhases (i : Instr) (core : State → Host.Outcome State Fault Refusal) (s : State) :
    Host.Outcome State Fault Refusal :=
  if s.busy then core s else .next (dispatchCommand i s)

/-! ### The pipeline and the trace port -/

/-- The emission of the next trace event, for step `p` of the table: before the transform it shows the working State,
after it the transformed one, and then `seq` moves on (44_cipher_pipeline.md R225, R227, R229). -/
def emitEvent (c : Cipher) (p : PipeStep) (s : State) : State :=
  if s.scratch.ph then
    { s with
      tq := some ⟨traceLabel c p true, encodeState (applyStep c s.scratch.rk s.scratch.st p)⟩
      seq := s.seq + 1
      scratch := { s.scratch with st := applyStep c s.scratch.rk s.scratch.st p, ph := false } }
  else
    { s with
      tq := some ⟨traceLabel c p false, encodeState s.scratch.st⟩
      scratch := { s.scratch with ph := true } }

/-- The core's step for a pipeline command in flight. Traced: while an event waits in TQ the core cannot move; else it
emits the next event, and after all 80 it completes. Not traced: it completes (30_encoding.md R91;
44_cipher_pipeline.md R229). -/
def pipelineStep (c : Cipher) (finish : State → State) (s : State) : Host.Outcome State Fault Refusal :=
  if s.lte then
    match s.tq with
    | some _ => .next s
    | none =>
      match (stepTable c)[s.seq]? with
      | some p => .next (emitEvent c p s)
      | none => .next (finish s)
  else .next (finish s)

/-- Encrypt or Decrypt (44_cipher_pipeline.md R220, R221). -/
def cipherBlock : Cipher → Block → Schedule → Block
  | .encrypt, b, rk => encryptBlock b rk
  | .decrypt, b, rk => decryptBlock b rk

/-- The final State `s_40` goes to STATE and its encoding to DOUT; all 40 steps are done (44_cipher_pipeline.md R225,
R230; log 10). -/
def writeCipherResult (c : Cipher) (rk : Schedule) (s : State) : State :=
  { s with
    st := decodeBlock (cipherBlock c s.din rk)
    dout := encodeState (decodeBlock (cipherBlock c s.din rk))
    seq := 40 }

/-- The RK store takes the schedule of KEY and SV becomes 1 (42_key_schedule.md R168). -/
def writeSchedule (s : State) : State := { s with rk := expand s.key, sv := true }

/-- The trace sink accepts the event in TQ; with none there it cannot move (44_cipher_pipeline.md R229; log 3). -/
def sinkAccept (s : State) : State :=
  match s.tq with
  | some e => { s with tq := none, delivered := s.delivered ++ [e] }
  | none => s

/-! ### Reset -/

/-- The reset event, in one step: every register at its reset value, a running command and a waiting trace event gone;
what the sink and the host have already received stays (70_reset_and_hazards.md R290, R291). -/
def resetEvent (s : State) : State :=
  { State.reset with delivered := s.delivered, replies := s.replies, moves := s.moves, draws := s.draws }

end Sys2Proof.Machine
end

