-- ==== Sys2Proof/Machine/Bus.lean ====
section
/-!
DEFINITION. The register window: the address map, the byte lanes, which accesses fail, and what reads and writes do
(20_memory.md R50 to R61).
-/

namespace Sys2Proof.Machine

/-- What an offset of the window belongs to (20_memory.md R52). -/
inductive Region
  | cmd
  | config
  | status
  | gf
  | key
  | din
  | dout
  | stateWindow
  | rkWindow (i : Fin 11)
  | reserved
deriving DecidableEq, Repr

/-- The control register at an offset 0x000 to 0x00F (20_memory.md R52). -/
def controlRegion (off : Nat) : Region :=
  if off < 0x4 then .cmd else if off < 0x8 then .config else if off < 0xC then .status else .gf

/-- The address map; every offset not listed is reserved (20_memory.md R52). -/
def regionOf (off : Offset) : Region :=
  if off.toNat < 0x010 then controlRegion off.toNat
  else if off.toNat < 0x020 then .reserved
  else if off.toNat < 0x030 then .key
  else if off.toNat < 0x040 then .din
  else if off.toNat < 0x050 then .dout
  else if off.toNat < 0x060 then .stateWindow
  else if off.toNat < 0x100 then .reserved
  else if h : off.toNat < 0x1B0 then .rkWindow ⟨off.toNat / 16 - 16, by omega⟩
  else .reserved

/-- The index within a 16-byte register: every region of data starts on a 16-byte boundary (20_memory.md R53, R56). -/
def indexIn (off : Offset) : Fin 16 := ⟨off.toNat % 16, by omega⟩

/-- The bytes of an access (20_memory.md R51). -/
def Size.bytes : Size → Nat
  | .b1 => 1
  | .b2 => 2
  | .b4 => 4

/-- CMD, CONFIG, STATUS and GF (20_memory.md R56). -/
def Region.isControl : Region → Bool
  | .cmd | .config | .status | .gf => true
  | .key | .din | .dout | .stateWindow | .rkWindow _ | .reserved => false

/-- DOUT and the STATE and RK windows (20_memory.md R58). -/
def Region.isReadOnly : Region → Bool
  | .dout | .stateWindow | .rkWindow _ => true
  | .cmd | .config | .status | .gf | .key | .din | .reserved => false

/-- CMD, KEY, DIN and GF, whose writes are refused while BUSY = 1 (20_memory.md R60). -/
def Region.isLocked : Region → Bool
  | .cmd | .key | .din | .gf => true
  | .config | .status | .dout | .stateWindow | .rkWindow _ | .reserved => false

/-- The causes of SLVERR that reads and writes share: misaligned, reserved, or a control register accessed with a size
other than 4 (60_exceptions.md R267; 20_memory.md R55 to R57). -/
def accessFails (off : Offset) (n : Size) : Bool :=
  off.toNat % n.bytes != 0 || regionOf off == .reserved || ((regionOf off).isControl && n != .b4)

/-- The causes of SLVERR of a write (60_exceptions.md R267; 20_memory.md R58, R60). -/
def writeFails (off : Offset) (n : Size) (s : State) : Bool :=
  accessFails off n || (regionOf off).isReadOnly || (s.busy && (regionOf off).isLocked)

/-- The host receives a reply (20_memory.md R51). -/
def addReply (r : BusReply) (s : State) : State := { s with replies := s.replies ++ [r] }

/-- The reply SLVERR; read data is 0 (60_exceptions.md R268). -/
def replyError : BusReply := ⟨.slverr, 0#32⟩

/-- The reply OKAY of a write. -/
def replyOkay : BusReply := ⟨.okay, 0#32⟩

/-! ### Lanes -/

/-- Byte `k` of a data word: bits 8k+7 to 8k (20_memory.md R53). -/
def laneByte (data : Word) (k : Nat) : Byte := data.extractLsb' (8 * k) 8

/-- The data word of `n` bytes, byte `k` in bits 8k+7 to 8k, the lanes above zero (20_memory.md R53; log 13). -/
def packLanes (f : Nat → Byte) : Size → Word
  | .b1 => 0#24 ++ f 0
  | .b2 => 0#16 ++ f 1 ++ f 0
  | .b4 => f 3 ++ f 2 ++ f 1 ++ f 0

/-! ### Reads -/

/-- The byte stored at an offset of a data window; none outside them (20_memory.md R52; 41_state_model.md R146). -/
def storedByte (s : State) (off : Offset) : Option Byte :=
  match regionOf off with
  | .key => some s.key[indexIn off]
  | .din => some s.din[indexIn off]
  | .dout => some s.dout[indexIn off]
  | .stateWindow => some (encodeState s.st)[indexIn off]
  | .rkWindow i => some (encodeState s.rk[i])[indexIn off]
  | .cmd | .config | .status | .gf | .reserved => none

/-- A read of the region is a free draw: the STATE and RK windows while BUSY = 1, and the RK window while SV = 0
(20_memory.md R59; 70_reset_and_hazards.md R292). -/
def readsFree (s : State) : Region → Bool
  | .stateWindow => s.busy
  | .rkWindow _ => s.busy || !s.sv
  | .cmd | .config | .status | .gf | .key | .din | .dout | .reserved => false

/-- Lane `k` of a read at `off` of a data window (20_memory.md R53, R59). -/
def readLane (s : State) (off : Offset) (k : Nat) : Byte :=
  if readsFree s (regionOf off) then Config.freeByte (s.draws + k)
  else (storedByte s (off + BitVec.ofNat 12 k)).getD 0

/-- The data of a read that responds OKAY (20_memory.md R59). -/
def readData (s : State) (off : Offset) (n : Size) : Word :=
  match regionOf off with
  | .cmd => s.cmd
  | .config => s.configWord
  | .status => s.statusWord
  | .gf => s.gfWord
  | .key | .din | .dout | .stateWindow | .rkWindow _ | .reserved => packLanes (readLane s off) n

/-- The free bytes a read draws: one for each lane (log 6). -/
def drawsOf (s : State) (off : Offset) (n : Size) : Nat :=
  if readsFree s (regionOf off) then n.bytes else 0

/-- A bus read. It changes nothing of the core (20_memory.md R61, R59; 60_exceptions.md R268). -/
def busRead (off : Offset) (n : Size) (s : State) : State :=
  if accessFails off n then addReply replyError s
  else addReply ⟨.okay, readData s off n⟩ { s with draws := s.draws + drawsOf s off n }

/-! ### Writes -/

/-- The register with the low `n` lanes of `data` stored from index `j` (20_memory.md R53, R61). -/
def writeBytes (b : Block) (j : Fin 16) (n : Size) (data : Word) : Block :=
  Vector.ofFn fun i => if j ≤ i ∧ i.val < j.val + n.bytes then laneByte data (i.val - j.val) else b[i]

/-- The write-1-to-clear of STATUS: bit 1 clears DONE, bit 2 clears ERR and ERRCODE (20_memory.md R61). -/
def writeStatus (data : Word) (s : State) : State :=
  let s := if data.getLsbD 1 then clearDone s else s
  if data.getLsbD 2 then clearErr s else s

/-- The effect of a write that responds OKAY; the dispatch of a CMD write follows it in the same step (20_memory.md
R61). -/
def storeRegister (off : Offset) (n : Size) (data : Word) (s : State) : State :=
  match regionOf off with
  | .cmd => { s with cmd := data }
  | .config => { s with ie := data.getLsbD 0, te := data.getLsbD 1 }
  | .status => writeStatus data s
  | .gf => { s with gfA := data.extractLsb' 0 8, gfB := data.extractLsb' 8 8 }
  | .key => { s with key := writeBytes s.key (indexIn off) n data }
  | .din => { s with din := writeBytes s.din (indexIn off) n data }
  | .dout | .stateWindow | .rkWindow _ | .reserved => s

end Sys2Proof.Machine
end

