-- ==== Sys2Proof/Machine/Pipeline.lean ====
section
/-!
DEFINITION. The four pipeline commands (44_cipher_pipeline.md R230 to R233).
-/

namespace Sys2Proof.Machine

/-- The completion of ENCRYPT and DECRYPT: RK' = expand(KEY) goes to RK, SV becomes 1, the result to STATE and DOUT
(44_cipher_pipeline.md R230, R231). -/
def finishExpanded (c : Cipher) (s : State) : State :=
  complete (writeCipherResult c (expand s.key) (writeSchedule s))

/-- The completion of ENCRYPT_RK and DECRYPT_RK: the result with the stored schedule goes to STATE and DOUT
(44_cipher_pipeline.md R232, R233). -/
def finishStored (c : Cipher) (s : State) : State := complete (writeCipherResult c s.rk s)

/-- ENCRYPT (44_cipher_pipeline.md R230). -/
def execEncrypt (blen klen : BitVec 5) (s : State) : Host.Outcome State Fault Refusal :=
  runPhases (.encrypt blen klen) (pipelineStep .encrypt (finishExpanded .encrypt)) s

/-- DECRYPT (44_cipher_pipeline.md R231). -/
def execDecrypt (blen klen : BitVec 5) (s : State) : Host.Outcome State Fault Refusal :=
  runPhases (.decrypt blen klen) (pipelineStep .decrypt (finishExpanded .decrypt)) s

/-- ENCRYPT_RK (44_cipher_pipeline.md R232). -/
def execEncryptRk (blen : BitVec 5) (s : State) : Host.Outcome State Fault Refusal :=
  runPhases (.encryptRk blen) (pipelineStep .encrypt (finishStored .encrypt)) s

/-- DECRYPT_RK (44_cipher_pipeline.md R233). -/
def execDecryptRk (blen : BitVec 5) (s : State) : Host.Outcome State Fault Refusal :=
  runPhases (.decryptRk blen) (pipelineStep .decrypt (finishStored .decrypt)) s

end Sys2Proof.Machine
end

