-- ==== Sys2Proof/Machine/Single.lean ====
section
/-!
DEFINITION. The commands that are no pipeline commands: EXPAND_KEY, GF_MUL, the codec commands and the four
single-step transforms. They emit no trace events (44_cipher_pipeline.md R227).
-/

namespace Sys2Proof.Machine

/-- EXPAND_KEY: RK takes expand(KEY) and SV becomes 1 (42_key_schedule.md R168). -/
def execExpandKey (klen : BitVec 5) (s : State) : Host.Outcome State Fault Refusal :=
  runPhases (.expandKey klen) (fun s => .next (complete (writeSchedule s))) s

/-- GF_MUL: `GF.P <- gmul(GF.A, GF.B)` (40_gf_and_tables.md R119). -/
def execGfMul (s : State) : Host.Outcome State Fault Refusal :=
  runPhases .gfMul (fun s => .next (complete { s with gfP := gmul s.gfA s.gfB })) s

/-- LOAD_STATE: `STATE <- decode(DIN)` (41_state_model.md R144). -/
def execLoadState (blen : BitVec 5) (s : State) : Host.Outcome State Fault Refusal :=
  runPhases (.loadState blen) (fun s => .next (complete { s with st := decodeBlock s.din })) s

/-- STORE_STATE: `DOUT <- encode(STATE)` (41_state_model.md R145). -/
def execStoreState (s : State) : Host.Outcome State Fault Refusal :=
  runPhases .storeState (fun s => .next (complete { s with dout := encodeState s.st })) s

/-- SUB_BYTES: `STATE <- SubBytes(STATE, dir)` (43_round_transforms.md R187). -/
def execSubBytes (dir : Direction) (s : State) : Host.Outcome State Fault Refusal :=
  runPhases (.subBytes dir) (fun s => .next (complete { s with st := subBytes dir s.st })) s

/-- SHIFT_ROWS: `STATE <- ShiftRows(STATE, dir)` (43_round_transforms.md R188). -/
def execShiftRows (dir : Direction) (s : State) : Host.Outcome State Fault Refusal :=
  runPhases (.shiftRows dir) (fun s => .next (complete { s with st := shiftRows dir s.st })) s

/-- MIX_COLUMNS: `STATE <- MixColumns(STATE, dir)` (43_round_transforms.md R189). -/
def execMixColumns (dir : Direction) (s : State) : Host.Outcome State Fault Refusal :=
  runPhases (.mixColumns dir) (fun s => .next (complete { s with st := mixColumns dir s.st })) s

/-- The core's step for ADD_ROUND_KEY in flight (43_round_transforms.md R190). RND above 10 is never in flight (log 12). -/
def addRoundKeyStep (rnd : BitVec 4) (s : State) : Host.Outcome State Fault Refusal :=
  match roundKeyAt rnd s.rk with
  | some k => .next (complete { s with st := addRoundKey s.st k })
  | none => .fault .noCommandInFlight

/-- ADD_ROUND_KEY: `STATE <- AddRoundKey(STATE, RK[zext_8(RND)])` (43_round_transforms.md R190). -/
def execAddRoundKey (rnd : BitVec 4) (s : State) : Host.Outcome State Fault Refusal :=
  runPhases (.addRoundKey rnd) (addRoundKeyStep rnd) s

end Sys2Proof.Machine
end

