-- ==== Sys2Proof/Machine/Dispatch.lean ====
section
/-!
DEFINITION. The meaning of each command: its dispatch at BUSY = 0, the core's step for it at BUSY = 1 (log 11).
-/

namespace Sys2Proof.Machine

/-- One arm per command. -/
def exec (i : Instr) (s : State) : Host.Outcome State Fault Refusal :=
  match i with
  | .encrypt blen klen => Sys2Proof.Machine.execEncrypt blen klen s
  | .decrypt blen klen => Sys2Proof.Machine.execDecrypt blen klen s
  | .expandKey klen => Sys2Proof.Machine.execExpandKey klen s
  | .encryptRk blen => Sys2Proof.Machine.execEncryptRk blen s
  | .decryptRk blen => Sys2Proof.Machine.execDecryptRk blen s
  | .gfMul => Sys2Proof.Machine.execGfMul s
  | .loadState blen => Sys2Proof.Machine.execLoadState blen s
  | .storeState => Sys2Proof.Machine.execStoreState s
  | .subBytes dir => Sys2Proof.Machine.execSubBytes dir s
  | .shiftRows dir => Sys2Proof.Machine.execShiftRows dir s
  | .mixColumns dir => Sys2Proof.Machine.execMixColumns dir s
  | .addRoundKey rnd => Sys2Proof.Machine.execAddRoundKey rnd s

end Sys2Proof.Machine
end

