-- ==== Sys2Proof/Machine/Control.lean ====
section
/-!
DEFINITION. The steps of the four agents: a bus write with the dispatch of a command word, the core's own step, and one
move of any agent (10_state.md R20; 30_encoding.md R89 to R91).
-/

namespace Sys2Proof.Machine

/-- The dispatch of the word `w` at BUSY = 0, after it has been stored in CMD: a legal word is dispatched by its
command's meaning, an illegal one raises ILLEGAL_COMMAND (30_encoding.md R89; 60_exceptions.md R263). -/
def runWord (w : Word) (s : State) : Host.Outcome State Fault Refusal :=
  match decode w with
  | .ok i => exec i s
  | .error _ => .next (raiseCmdError .illegalCommand (clearOutcome s))

/-- A bus write. The write itself responds OKAY whether or not the command word is legal (30_encoding.md R89). -/
def busWrite (off : Offset) (n : Size) (data : Word) (s : State) : Host.Outcome State Fault Refusal :=
  if writeFails off n s then .next (addReply replyError s)
  else if regionOf off = .cmd then runWord data (addReply replyOkay (storeRegister off n data s))
  else .next (addReply replyOkay (storeRegister off n data s))

/-- The core's step: the command in flight goes on (30_encoding.md R91). An idle core cannot move (log 3). -/
def coreMove (s : State) : Host.Outcome State Fault Refusal :=
  if s.busy then
    match decode s.lcmd with
    | .ok i => exec i s
    | .error _ => .fault .noCommandInFlight
  else .next s

/-- One move of one agent (10_state.md R20). -/
def runMove (m : Move) (s : State) : Host.Outcome State Fault Refusal :=
  match m with
  | .busRead off n => .next (busRead off n s)
  | .busWrite off n data => busWrite off n data s
  | .core => coreMove s
  | .sink => .next (sinkAccept s)
  | .reset => .next (resetEvent s)

/-- The state in which the very next step is the host's write of the word `w` to CMD while BUSY = 0 (30_encoding.md R80,
R89; log 4). -/
def withCommandWord (w : Word) (s : State) : State :=
  { s with busy := false, moves := .busWrite 0x000#12 .b4 w :: s.moves }

end Sys2Proof.Machine
end

