-- ==== Sys2Proof/Machine/Step.lean ====
section
/-!
DEFINITION. One step of the machine, and how a command word is placed so that the next step runs it.
-/

namespace Sys2Proof.Machine

/-- One step: the next move of the list, or, with none listed, the core's own (10_state.md R20; log 1 and 2). -/
def step (s : State) : Host.Outcome State Fault Refusal :=
  match s.moves with
  | [] => coreMove s
  | m :: rest => runMove m { s with moves := rest }

/-- The core fetches no instructions: a command arrives as a bus write to CMD (10_state.md R22). So the next move becomes
that write of the word's low `nbits` bits (log 4). -/
def State.withFetchWord (s : State) (nbits w : Nat) : State :=
  withCommandWord (BitVec.ofNat 32 (w % 2 ^ nbits)) s

end Sys2Proof.Machine
end

