-- ==== Sys2Proof/Machine/Polynomial.lean ====
section
/-!
DEFINITION. The product of polynomials over GF(2) and its remainder, in which 40_gf_and_tables.md R111 says what gmul is.
No meaning uses them: they stand for the statements only.
-/

namespace Sys2Proof.Machine

/-- The carry-less product A(x)·B(x): bit i of a byte is the coefficient of x^i (00_scope.md R8). -/
def clmul (a b : Byte) : BitVec 16 :=
  (List.range 8).foldl (fun p i => if b.getLsbD i then p ^^^ (a.setWidth 16 <<< i) else p) 0#16

/-- One step of the long division: the term x^(i+8) is cancelled by x^i·(x^8+x^4+x^3+x+1). -/
def cancelTerm (p : BitVec 16) (i : Nat) : BitVec 16 :=
  if p.getLsbD (i + 8) then p ^^^ (0x11B#16 <<< i) else p

/-- The remainder modulo x^8+x^4+x^3+x+1 of a polynomial of degree below 16. -/
def polyRemainder (p : BitVec 16) : Byte :=
  ([7, 6, 5, 4, 3, 2, 1, 0].foldl cancelTerm p).setWidth 8

/-- `y xor rotl8(y,1) xor rotl8(y,2) xor rotl8(y,3) xor rotl8(y,4) xor 0x63` (40_gf_and_tables.md R115). -/
def sboxAffine (y : Byte) : Byte :=
  y ^^^ y.rotateLeft 1 ^^^ y.rotateLeft 2 ^^^ y.rotateLeft 3 ^^^ y.rotateLeft 4 ^^^ 0x63#8

end Sys2Proof.Machine
end

