-- ==== Sys2Proof/Safety.lean ====
section
/-!
DEFINITION. What a state of a run looks like, in the terms the statements use: the invariant, which agents can move, and
how far a command is from its completion.
-/

namespace Sys2Proof.Machine

/-- The cipher a pipeline command runs; none for the other commands (44_cipher_pipeline.md R223, R224). -/
def cipherOf : Instr → Option Cipher
  | .encrypt _ _ => some .encrypt
  | .decrypt _ _ => some .decrypt
  | .encryptRk _ => some .encrypt
  | .decryptRk _ => some .decrypt
  | .expandKey _ => none
  | .gfMul => none
  | .loadState _ => none
  | .storeState => none
  | .subBytes _ => none
  | .shiftRows _ => none
  | .mixColumns _ => none
  | .addRoundKey _ => none

/-- How many trace events of the command in flight have been emitted: two for each finished step, one more when the
event before the transform of step `seq` is out (44_cipher_pipeline.md R227). -/
def emitted (s : State) : Nat := 2 * s.seq + s.scratch.ph.toNat

/-- A traced command in flight holds in scratch the State `s_seq` of 44_cipher_pipeline.md R227 and its schedule, and in
TQ the event it emitted last. -/
def TracedInv (c : Cipher) (i : Instr) (s : State) : Prop :=
  s.scratch.rk = scheduleOf i s ∧
  s.scratch.st = stateAfter c (scheduleOf i s) s.din s.seq ∧
  emitted s ≤ 80 ∧
  ∀ e, s.tq = some e → 0 < emitted s ∧ (traceEvents c (scheduleOf i s) s.din)[emitted s - 1]? = some e

/-- A command in flight that is not traced has emitted nothing. -/
def UntracedInv (s : State) : Prop := s.tq = none ∧ s.seq = 0

/-- What holds of the command in flight: its word is legal and passed every check of dispatch, SV is 0 while it rewrites
the RK store, and its trace is as R227 says. -/
def InFlightInv (i : Instr) (s : State) : Prop :=
  commandError i s.sv = none ∧
  (writesSched i = true → s.sv = false) ∧
  match cipherOf i with
  | some c => if s.lte then TracedInv c i s else UntracedInv s
  | none => UntracedInv s

/-- The invariant of the machine. -/
structure Invariant (s : State) : Prop where
  /-- DONE and ERR are never both 1 (10_state.md R26). -/
  outcome_exclusive : ¬(s.done = true ∧ s.err = true)
  /-- ERRCODE is 0 exactly when ERR is 0 (10_state.md R26). -/
  code_iff : s.errcode = .noError ↔ s.err = false
  /-- seq is 0 to 40 (10_state.md R34). -/
  seq_le : s.seq ≤ 40
  /-- SV = 1 says that the RK store holds the schedule of some key (00_scope.md R12, 10_state.md R32). -/
  schedule_valid : s.sv = true → ∃ key, s.rk = expand key
  /-- No event waits in TQ once the command is complete (30_encoding.md R91). -/
  idle_tq : s.busy = false → s.tq = none
  /-- While BUSY = 1 neither outcome is set, and CMD is the command in flight (30_encoding.md R89, R90). -/
  busy_outcome : s.busy = true → s.done = false ∧ s.err = false ∧ s.cmd = s.lcmd
  /-- While BUSY = 1 a legal command is in flight. -/
  busy_inFlight : s.busy = true → ∃ i, decode s.lcmd = .ok i ∧ InFlightInv i s

/-- The core can take a step of its own: BUSY = 1 and no trace event waits (44_cipher_pipeline.md R229). -/
def coreEnabled (s : State) : Bool := s.busy && s.tq.isNone

/-- The trace sink can accept (44_cipher_pipeline.md R229). -/
def sinkEnabled (s : State) : Bool := s.tq.isSome

/-- Whether the command in flight is traced: a pipeline command with LTE = 1 (44_cipher_pipeline.md R227). -/
def tracedInFlight (s : State) : Bool :=
  match decode s.lcmd with
  | .ok i => (cipherOf i).isSome && s.lte
  | .error _ => false

/-- How many steps of the core and of the sink are left until the completion of the command in flight: an emission and an
acceptance for each of the 80 events, and the completion itself (30_encoding.md R91; 44_cipher_pipeline.md R229). -/
def remaining (s : State) : Nat :=
  if s.busy then
    (if tracedInFlight s then 2 * (80 - emitted s) + s.tq.isSome.toNat else 0) + 1
  else 0

/-- The list of moves that drains a traced command: the core and the sink in turn, and at last the core. -/
def drainMoves : List Move := (List.replicate 80 [Move.core, Move.sink]).flatten ++ [.core]

/-- `n` steps of the machine, stopping at the first fault or refusal. -/
def runSteps (n : Nat) (s : State) : Host.Outcome State Fault Refusal := Sys2Proof.core.run n s

/-- The next move of the list is the reset event. -/
def resetNext (s : State) : Prop := s.moves.head? = some .reset

/-- The next step is the core's own: a core move is next, or no move is listed (10_state.md R20; log 2). -/
def coreNext (s : State) : Prop := s.moves = [] ∨ s.moves.head? = some .core

end Sys2Proof.Machine
end

