-- ==== Sys2Proof/Certificates/Slice0/Obligations.lean ====
section
/-!
DEFINITION. The statements for the provers, about every state and every operand; each docstring names the rule of spec/.
-/

open Sys2Proof Sys2Proof.Machine Host

/-! ### Encoding -/

/-- 30_encoding.md R86, the canonical words, and R87, one illegal word for each of its cases. -/
def Obligations.CanonicalWordsDecode : Prop :=
  decode 0x10100001#32 = .ok (.encrypt 16#5 16#5) ∧ decode 0x10100002#32 = .ok (.decrypt 16#5 16#5) ∧
  decode 0x10000003#32 = .ok (.expandKey 16#5) ∧ decode 0x00100004#32 = .ok (.encryptRk 16#5) ∧
  decode 0x00100005#32 = .ok (.decryptRk 16#5) ∧ decode 0x00000006#32 = .ok .gfMul ∧
  decode 0x00100007#32 = .ok (.loadState 16#5) ∧ decode 0x00000008#32 = .ok .storeState ∧
  decode 0x00000009#32 = .ok (.subBytes .forward) ∧ decode 0x00000019#32 = .ok (.subBytes .inverse) ∧
  decode 0x0000000A#32 = .ok (.shiftRows .forward) ∧ decode 0x0000001A#32 = .ok (.shiftRows .inverse) ∧
  decode 0x0000000B#32 = .ok (.mixColumns .forward) ∧ decode 0x0000001B#32 = .ok (.mixColumns .inverse) ∧
  decode 0x0000000C#32 = .ok (.addRoundKey 0#4) ∧ decode 0x00000A0C#32 = .ok (.addRoundKey 10#4) ∧
  decode 0x00000000#32 = .error .unassignedOp ∧ decode 0x30100001#32 = .error .reservedBit ∧
  decode 0x10100003#32 = .error .unusedField ∧ decode 0x00000B0C#32 = .error .roundKeyIndex

/-- 30_encoding.md R81 to R87: decoding the word of a well-formed command gives the command back, with every operand. -/
def Obligations.DecodeOfEncodeIsTheCommand : Prop :=
  ∀ i : Instr, i.wellFormed = true → decode (encode i) = .ok i

/-- 30_encoding.md R81 to R87: a word that decodes is the word of its command, bit for bit, and the command is well
formed; so no two words stand for one command. -/
def Obligations.EncodeOfDecodeIsTheWord : Prop :=
  ∀ (w : Word) (i : Instr), decode w = .ok i → i.wellFormed = true ∧ encode i = w

/-- 30_encoding.md R87: the four cases of an illegal word, by its bits, and a word is illegal exactly when it is none of
the legal forms of R86. -/
def Obligations.IllegalWordsAreTheFourCases : Prop :=
  ∀ w : Word,
    ((∃ e, decode w = .error e) ↔
      w.extractLsb' 0 4 ∈ [0x0#4, 0xD#4, 0xE#4, 0xF#4] ∨
      (w.extractLsb' 29 3 ≠ 0 ∨ w.extractLsb' 21 3 ≠ 0 ∨ w.extractLsb' 12 4 ≠ 0 ∨ w.extractLsb' 5 3 ≠ 0) ∨
      ((w.extractLsb' 4 1 ≠ 0 ∧ w.extractLsb' 0 4 ∉ [0x9#4, 0xA#4, 0xB#4]) ∨
        (w.extractLsb' 8 4 ≠ 0 ∧ w.extractLsb' 0 4 ≠ 0xC#4) ∨
        (w.extractLsb' 16 5 ≠ 0 ∧ w.extractLsb' 0 4 ∉ [0x1#4, 0x2#4, 0x4#4, 0x5#4, 0x7#4]) ∨
        (w.extractLsb' 24 5 ≠ 0 ∧ w.extractLsb' 0 4 ∉ [0x1#4, 0x2#4, 0x3#4])) ∨
      (w.extractLsb' 0 4 = 0xC#4 ∧ 10 < (w.extractLsb' 8 4).toNat)) ∧
    ((∃ e, decode w = .error e) ↔ legal w = false)

/-! ### A step runs the decoded command -/

/-- 30_encoding.md R80 and R89: when the host's next transaction writes a legal word to CMD at BUSY = 0, the step stores
the word, answers OKAY and runs the decoded command. -/
def Obligations.StepRunsTheWrittenCommand : Prop :=
  ∀ (s : State) (w : Word) (i : Instr) (rest : List Move),
    s.busy = false → s.moves = .busWrite 0x000#12 .b4 w :: rest → decode w = .ok i →
    step s = exec i { s with moves := rest, cmd := w, replies := s.replies ++ [⟨.okay, 0#32⟩] }

/-- 30_encoding.md R91: when the core moves at BUSY = 1, the step runs the command of LCMD. Two clauses are the model's
choice: where LCMD holds no legal word, which no run from reset reaches, the step is the named fault (log 12), and at
BUSY = 0, where the core has no step, its move changes nothing (log 3). -/
def Obligations.StepRunsTheCommandInFlight : Prop :=
  ∀ s : State, coreNext s →
    (s.busy = true →
      (∀ i, decode s.lcmd = .ok i → step s = exec i { s with moves := s.moves.tail }) ∧
      (∀ e, decode s.lcmd = .error e → step s = .fault .noCommandInFlight)) ∧
    (s.busy = false → step s = .next { s with moves := s.moves.tail })

/-! ### Dispatch -/

/-- 30_encoding.md R89, 60_exceptions.md R265 and R266: the whole dispatch of a CMD write at BUSY = 0, by the bits of the
word, with the writes of `accept(w)`; at BUSY = 1 the write is refused. Only the values that acceptance gives to scratch
are left open (log 9). -/
def Obligations.CommandWriteDispatch : Prop :=
  ∀ (s : State) (w : Word) (rest : List Move), s.moves = .busWrite 0x000#12 .b4 w :: rest →
    (s.busy = true → step s = .next { s with moves := rest, replies := s.replies ++ [⟨.slverr, 0#32⟩] }) ∧
    (s.busy = false → ∃ x : Scratch, step s = .next
      (let op := w.extractLsb' 0 4
       let cleared : State := { s with
         moves := rest, cmd := w, replies := s.replies ++ [⟨.okay, 0#32⟩]
         done := false, err := false, errcode := .noError }
       if legal w = false then { cleared with err := true, errcode := .illegalCommand }
       else if op ∈ [0x1#4, 0x2#4, 0x4#4, 0x5#4, 0x7#4] ∧ (w.extractLsb' 16 5).toNat ≠ 16 then
         { cleared with err := true, errcode := .invalidLength }
       else if op ∈ [0x1#4, 0x2#4, 0x3#4] ∧ (w.extractLsb' 24 5).toNat ≠ 16 then
         { cleared with err := true, errcode := .invalidLength }
       else if op ∈ [0x4#4, 0x5#4, 0xC#4] ∧ s.sv = false then
         { cleared with err := true, errcode := .noSchedule }
       else
         { cleared with
           lcmd := w, lte := s.te, seq := 0, tq := none, busy := true
           sv := if op ∈ [0x1#4, 0x2#4, 0x3#4] then false else s.sv
           scratch := x }))

/-- 60_exceptions.md R262: a declared block or key length other than 16 raises INVALID_LENGTH. -/
def Obligations.WrongLengthRaisesInvalidLength : Prop :=
  ∀ (s : State) (blen klen : BitVec 5) (i : Instr), s.busy = false →
    (blen.toNat ≠ 16 ∧
        i ∈ [.encrypt blen klen, .decrypt blen klen, .encryptRk blen, .decryptRk blen, .loadState blen]) ∨
      (klen.toNat ≠ 16 ∧ i ∈ [.encrypt blen klen, .decrypt blen klen, .expandKey klen]) →
    exec i s = .next { s with done := false, err := true, errcode := .invalidLength }

/-- 60_exceptions.md R264: ENCRYPT_RK, DECRYPT_RK and ADD_ROUND_KEY, legal and of the right length, raise NO_SCHEDULE
while SV = 0. -/
def Obligations.NoScheduleRaisedWhileSvClear : Prop :=
  ∀ (s : State) (rnd : BitVec 4) (i : Instr), s.busy = false → s.sv = false → rnd.toNat ≤ 10 →
    i ∈ [.encryptRk 16#5, .decryptRk 16#5, .addRoundKey rnd] →
    exec i s = .next { s with done := false, err := true, errcode := .noSchedule }

/-- 60_exceptions.md R266 and 44_cipher_pipeline.md R234: a command that fails at dispatch changes nothing but the
outcome: DONE cleared, ERR set, ERRCODE the code. -/
def Obligations.FailedCommandOnlyRecordsTheError : Prop :=
  ∀ (s : State) (i : Instr) (code : ErrCode), s.busy = false → commandError i s.sv = some code →
    exec i s = .next { s with done := false, err := true, errcode := code } ∧ code ≠ .noError

/-- 30_encoding.md R90: what acceptance writes. The scratch values are the model's (log 9): a pipeline command starts
from decode(DIN) and its schedule. -/
def Obligations.AcceptedCommandMakesTheCoreBusy : Prop :=
  ∀ (s : State) (i : Instr), s.busy = false → commandError i s.sv = none →
    exec i s = .next { s with
      done := false, err := false, errcode := .noError
      lcmd := encode i, lte := s.te, seq := 0, tq := none, busy := true
      sv := if i.fields.op ∈ [0x1#4, 0x2#4, 0x3#4] then false else s.sv
      scratch := if i.fields.op ∈ [0x1#4, 0x2#4, 0x4#4, 0x5#4] then
          { st := decodeBlock s.din, rk := scheduleOf i s, ph := false } else s.scratch }

/-! ### Completion: what each command writes, and that it writes nothing else -/

/-- 40_gf_and_tables.md R119. -/
def Obligations.GfMulCompletes : Prop :=
  ∀ s : State, s.busy = true →
    exec .gfMul s = .next { s with gfP := gmul s.gfA s.gfB, busy := false, done := true }

/-- 41_state_model.md R144 with R140. -/
def Obligations.LoadStateCompletes : Prop :=
  ∀ (s : State) (blen : BitVec 5), s.busy = true →
    ∃ m : Mat, (∀ r c : Fin 4, m.at r c = s.din[r.val + 4 * c.val]) ∧
      exec (.loadState blen) s = .next { s with st := m, busy := false, done := true }

/-- 41_state_model.md R145 with R141. -/
def Obligations.StoreStateCompletes : Prop :=
  ∀ s : State, s.busy = true →
    ∃ b : Block, (∀ r c : Fin 4, b[r.val + 4 * c.val] = s.st.at r c) ∧
      exec .storeState s = .next { s with dout := b, busy := false, done := true }

/-- 43_round_transforms.md R187 with R181. -/
def Obligations.SubBytesCompletes : Prop :=
  ∀ (s : State) (dir : Direction), s.busy = true →
    ∃ m : Mat,
      (∀ r c : Fin 4, m.at r c = if dir = .forward then sbox (s.st.at r c) else invSbox (s.st.at r c)) ∧
      exec (.subBytes dir) s = .next { s with st := m, busy := false, done := true }

/-- 43_round_transforms.md R188 with R182: row r moves left by r for Forward and right by r for Inverse. -/
def Obligations.ShiftRowsCompletes : Prop :=
  ∀ (s : State) (dir : Direction), s.busy = true →
    ∃ m : Mat,
      (∀ r c d : Fin 4,
        (dir = .forward ∧ d.val = (c.val + r.val) % 4 ∨ dir = .inverse ∧ d.val = (c.val + 4 - r.val) % 4) →
        m.at r c = s.st.at r d) ∧
      exec (.shiftRows dir) s = .next { s with st := m, busy := false, done := true }

/-- 43_round_transforms.md R189 with R183 and R184, row by row of the two matrices. -/
def Obligations.MixColumnsCompletes : Prop :=
  ∀ (s : State) (dir : Direction), s.busy = true →
    ∃ m : Mat,
      (∀ c : Fin 4,
        let a0 := s.st.at 0 c
        let a1 := s.st.at 1 c
        let a2 := s.st.at 2 c
        let a3 := s.st.at 3 c
        (dir = .forward →
          m.at 0 c = gmul 0x02 a0 ^^^ gmul 0x03 a1 ^^^ a2 ^^^ a3 ∧
          m.at 1 c = a0 ^^^ gmul 0x02 a1 ^^^ gmul 0x03 a2 ^^^ a3 ∧
          m.at 2 c = a0 ^^^ a1 ^^^ gmul 0x02 a2 ^^^ gmul 0x03 a3 ∧
          m.at 3 c = gmul 0x03 a0 ^^^ a1 ^^^ a2 ^^^ gmul 0x02 a3) ∧
        (dir = .inverse →
          m.at 0 c = gmul 0x0E a0 ^^^ gmul 0x0B a1 ^^^ gmul 0x0D a2 ^^^ gmul 0x09 a3 ∧
          m.at 1 c = gmul 0x09 a0 ^^^ gmul 0x0E a1 ^^^ gmul 0x0B a2 ^^^ gmul 0x0D a3 ∧
          m.at 2 c = gmul 0x0D a0 ^^^ gmul 0x09 a1 ^^^ gmul 0x0E a2 ^^^ gmul 0x0B a3 ∧
          m.at 3 c = gmul 0x0B a0 ^^^ gmul 0x0D a1 ^^^ gmul 0x09 a2 ^^^ gmul 0x0E a3)) ∧
      exec (.mixColumns dir) s = .next { s with st := m, busy := false, done := true }

/-- 43_round_transforms.md R190 with R185, for every legal RND. RND above 10 is no command (30_encoding.md R87) and is
never in flight; there the model's step is the named fault (log 12). -/
def Obligations.AddRoundKeyCompletes : Prop :=
  ∀ (s : State) (rnd : BitVec 4), s.busy = true →
    (∀ k : Fin 11, rnd.toNat = k.val →
      ∃ m : Mat, (∀ r c : Fin 4, m.at r c = s.st.at r c ^^^ s.rk[k].at r c) ∧
        exec (.addRoundKey rnd) s = .next { s with st := m, busy := false, done := true }) ∧
    (10 < rnd.toNat → exec (.addRoundKey rnd) s = .fault .noCommandInFlight)

/-- 42_key_schedule.md R168: the completion, with expand(KEY) of R166. -/
def Obligations.ExpandKeyCompletes : Prop :=
  ∀ (s : State) (klen : BitVec 5), s.busy = true →
    exec (.expandKey klen) s = .next { s with rk := expand s.key, sv := true, busy := false, done := true }

/-- 44_cipher_pipeline.md R230: ENCRYPT completes with expand(KEY) in RK, SV = 1, and the ciphertext of DIN in STATE and
DOUT, once it is not traced or all its events are out and accepted (30_encoding.md R91). seq ends at 40 (log 10). -/
def Obligations.EncryptCompletes : Prop :=
  ∀ (s : State) (blen klen : BitVec 5), s.busy = true → (s.lte = false ∨ (s.seq = 40 ∧ s.tq = none)) →
    exec (.encrypt blen klen) s = .next { s with
      rk := expand s.key, sv := true
      st := decodeBlock (encryptBlock s.din (expand s.key))
      dout := encryptBlock s.din (expand s.key)
      seq := 40, busy := false, done := true }

/-- 44_cipher_pipeline.md R231: DECRYPT, in the same way. -/
def Obligations.DecryptCompletes : Prop :=
  ∀ (s : State) (blen klen : BitVec 5), s.busy = true → (s.lte = false ∨ (s.seq = 40 ∧ s.tq = none)) →
    exec (.decrypt blen klen) s = .next { s with
      rk := expand s.key, sv := true
      st := decodeBlock (decryptBlock s.din (expand s.key))
      dout := decryptBlock s.din (expand s.key)
      seq := 40, busy := false, done := true }

/-- 44_cipher_pipeline.md R232 and R233: ENCRYPT_RK and DECRYPT_RK use the RK store as it stands and leave it and SV
alone. -/
def Obligations.StoredScheduleCommandsComplete : Prop :=
  ∀ (s : State) (blen : BitVec 5), s.busy = true → (s.lte = false ∨ (s.seq = 40 ∧ s.tq = none)) →
    exec (.encryptRk blen) s = .next { s with
      st := decodeBlock (encryptBlock s.din s.rk)
      dout := encryptBlock s.din s.rk
      seq := 40, busy := false, done := true } ∧
    exec (.decryptRk blen) s = .next { s with
      st := decodeBlock (decryptBlock s.din s.rk)
      dout := decryptBlock s.din s.rk
      seq := 40, busy := false, done := true }

/-! ### The trace port -/

/-- 44_cipher_pipeline.md R227 and R229: with TQ empty and events left, a traced command in flight emits exactly the next
event of its 80 and changes nothing but TQ, seq and scratch. -/
def Obligations.TracedCommandEmitsTheNextEvent : Prop :=
  ∀ (s : State) (i : Instr) (c : Cipher), s.busy = true → cipherOf i = some c → s.lte = true →
    TracedInv c i s → s.tq = none → emitted s < 80 →
    ∃ (e : TraceEvent) (n : Nat) (x : Scratch),
      exec i s = .next { s with tq := some e, seq := n, scratch := x } ∧
      (traceEvents c (scheduleOf i s) s.din)[emitted s]? = some e ∧
      2 * n + x.ph.toNat = emitted s + 1

/-- 44_cipher_pipeline.md R229: while an event waits in TQ a traced pipeline command cannot move. -/
def Obligations.TracedCommandWaitsForTheSink : Prop :=
  ∀ (s : State) (i : Instr) (e : TraceEvent), s.busy = true → s.lte = true → s.tq = some e →
    i.fields.op ∈ [0x1#4, 0x2#4, 0x4#4, 0x5#4] → exec i s = .next s

/-- 44_cipher_pipeline.md R229: the sink's accept step takes the event in TQ and changes nothing else; with TQ empty it
is not enabled and nothing changes (log 3). -/
def Obligations.SinkAcceptsTheWaitingEvent : Prop :=
  ∀ (s : State) (rest : List Move), s.moves = .sink :: rest →
    (∀ e, s.tq = some e →
      step s = .next { s with moves := rest, tq := none, delivered := s.delivered ++ [e] }) ∧
    (s.tq = none → step s = .next { s with moves := rest })

/-- 44_cipher_pipeline.md R226: the label is `STAGE | XF<<4 | PH<<6 | CDIR<<7`. -/
def Obligations.TraceLabelFormat : Prop :=
  ∀ (c : Cipher) (p : PipeStep) (ph : Bool),
    (traceLabel c p ph).toNat =
      p.stage.val + 16 * (match p.xf with | .subBytes => 0 | .shiftRows => 1 | .mixColumns => 2 | .addRoundKey => 3)
        + 64 * ph.toNat + 128 * (match c with | .encrypt => 0 | .decrypt => 1)

/-- 44_cipher_pipeline.md R227: exactly 80 events; event 2k is the one before step k and event 2k+1 the one after it;
event 2k+1 and event 2k+2 carry the same snapshot for k = 0..38. -/
def Obligations.TraceHasEightyEvents : Prop :=
  ∀ (c : Cipher) (rk : Schedule) (b : Block),
    (traceEvents c rk b).length = 80 ∧
    (∀ (k : Nat) (p : PipeStep), (stepTable c)[k]? = some p →
      (traceEvents c rk b)[2 * k]? = some ⟨traceLabel c p false, encodeState (stateAfter c rk b k)⟩ ∧
      (traceEvents c rk b)[2 * k + 1]? =
        some ⟨traceLabel c p true, encodeState (applyStep c rk (stateAfter c rk b k) p)⟩) ∧
    (∀ k : Nat, k < 39 →
      ((traceEvents c rk b)[2 * k + 1]?).map (·.snapshot) = ((traceEvents c rk b)[2 * k + 2]?).map (·.snapshot))

/-- 44_cipher_pipeline.md R227, R229 and 30_encoding.md R91, as one run: a pipeline command accepted with TE = 1, and
then the core and the sink in turn, delivers exactly the 80 events in order and completes with its result. -/
def Obligations.TracedRunDeliversAndCompletes : Prop :=
  ∀ (s : State) (w : Word) (i : Instr) (c : Cipher) (rest : List Move),
    s.busy = false → s.te = true → decode w = .ok i → cipherOf i = some c → commandError i s.sv = none →
    s.moves = .busWrite 0x000#12 .b4 w :: (drainMoves ++ rest) →
    ∃ t : State, runSteps 162 s = .next t ∧
      t.delivered = s.delivered ++ traceEvents c (scheduleOf i s) s.din ∧
      t.dout = cipherBlock c s.din (scheduleOf i s) ∧ t.st = decodeBlock (cipherBlock c s.din (scheduleOf i s)) ∧
      t.rk = scheduleOf i s ∧ t.sv = true ∧ t.busy = false ∧ t.done = true ∧ t.moves = rest

/-- 44_cipher_pipeline.md R228: traced or not, a pipeline command writes the same DOUT, STATE, RK and SV. -/
def Obligations.TracingNeverChangesTheResult : Prop :=
  ∀ (s : State) (w : Word) (i : Instr) (c : Cipher),
    s.busy = false → decode w = .ok i → cipherOf i = some c → commandError i s.sv = none →
    ∃ t u : State,
      runSteps 162 { s with te := true, moves := .busWrite 0x000#12 .b4 w :: drainMoves } = .next t ∧
      runSteps 2 { s with te := false, moves := [.busWrite 0x000#12 .b4 w, .core] } = .next u ∧
      t.dout = u.dout ∧ t.st = u.st ∧ t.rk = u.rk ∧ t.sv = u.sv ∧ t.statusWord = u.statusWord ∧
      u.delivered = s.delivered ∧ t.busy = false

/-- 44_cipher_pipeline.md R229 and 70_reset_and_hazards.md R299: without a sink move or a reset, a traced command whose
event waits stays BUSY for any number of steps, whatever the host does. -/
def Obligations.OnlyTheSinkOrResetEndsTheWait : Prop :=
  ∀ (n : Nat) (s : State) (e : TraceEvent), s.busy = true → tracedInFlight s = true → s.tq = some e →
    .sink ∉ s.moves → .reset ∉ s.moves →
    ∃ t, runSteps n s = .next t ∧ t.busy = true ∧ (s.done = false → t.done = false) ∧ t.tq = some e ∧
      t.delivered = s.delivered

/-- 30_encoding.md R92: the way to completion is finite. In a state of the invariant with BUSY = 1 exactly one of the
core and the sink can move, its move brings the completion one step nearer, the other changes nothing, and a bus
transaction does not take it further away. -/
def Obligations.EveryCommandCountsDownToCompletion : Prop :=
  ∀ s : State, Invariant s → s.busy = true →
    (coreEnabled s = !sinkEnabled s) ∧ 0 < remaining s ∧ remaining s ≤ 161 ∧
    (∃ t, runMove .core s = .next t ∧ remaining t + (coreEnabled s).toNat = remaining s) ∧
    (∃ t, runMove .sink s = .next t ∧ remaining t + (sinkEnabled s).toNat = remaining s ∧ t.busy = true) ∧
    (∀ off n, ∃ t, runMove (.busRead off n) s = .next t ∧ remaining t = remaining s ∧ t.busy = true) ∧
    (∀ off n d, ∃ t, runMove (.busWrite off n d) s = .next t ∧ remaining t = remaining s ∧ t.busy = true)

/-! ### The arithmetic and the cipher -/

/-- 40_gf_and_tables.md R112, laws that the spec derives from R111. -/
def Obligations.GmulLaws : Prop :=
  ∀ a b c : Byte,
    gmul a b = gmul b a ∧ gmul a 0x00 = 0x00 ∧ gmul a 0x01 = a ∧ gmul a (b ^^^ c) = gmul a b ^^^ gmul a c ∧
    gmul a 0x02 = ((a <<< 1) ^^^ if a.getLsbD 7 then 0x1B else 0x00) ∧ gmul a 0x03 = gmul a 0x02 ^^^ a

/-- 40_gf_and_tables.md R111, which the spec derives from R110. -/
def Obligations.GmulIsThePolynomialProduct : Prop :=
  ∀ a b : Byte, gmul a b = polyRemainder (clmul a b)

/-- 40_gf_and_tables.md R115, a check that the spec gives from general knowledge (log 16): the table is the affine map of
the field inverse, 0 mapped to 0. -/
def Obligations.SboxIsTheAffineInverse : Prop :=
  ∀ x : Byte, ∃ y : Byte, (x = 0 → y = 0) ∧ (x ≠ 0 → gmul x y = 0x01) ∧ sbox x = sboxAffine y

/-- 40_gf_and_tables.md R116: the two tables are mutual inverses; and R117's check of RCON, which the spec derives. The
contents are from general knowledge (log 16). -/
def Obligations.RomsAgreeWithTheirChecks : Prop :=
  (∀ x : Byte, invSbox (sbox x) = x ∧ sbox (invSbox x) = x) ∧
  rcon 0 = 0x01 ∧ (∀ i : Fin 9, rcon i.succ = gmul (rcon i.castSucc) 0x02)

/-- 41_state_model.md R142. -/
def Obligations.CodecIsABijection : Prop :=
  (∀ b : Block, encodeState (decodeBlock b) = b) ∧ (∀ s : Mat, decodeBlock (encodeState s) = s)

/-- 43_round_transforms.md R186, in both orders; the spec derives the one with Inverse first. -/
def Obligations.TransformsUndoEachOther : Prop :=
  ∀ (s k : Mat) (d e : Direction), d ≠ e →
    subBytes e (subBytes d s) = s ∧ shiftRows e (shiftRows d s) = s ∧ mixColumns e (mixColumns d s) = s ∧
    addRoundKey (addRoundKey s k) k = s

/-- 42_key_schedule.md R167, which the spec derives from R160 to R166: the schedule as 44 words, with
W[4i + c] the bytes 4c to 4c+3 of encode(RK[i]). -/
def Obligations.KeyScheduleInFlatForm : Prop :=
  ∀ (key : Block) (W : Nat → Fin 4 → Byte),
    (∀ (i : Fin 11) (c j : Fin 4), W (4 * i.val + c.val) j = (encodeState (expand key)[i])[4 * c.val + j.val]) →
    (∀ k j : Fin 4, W k.val j = key[4 * k.val + j.val]) ∧
    (∀ (i : Fin 10) (j : Fin 4),
      W (4 * i.val + 4) j =
        W (4 * i.val) j ^^^ sbox (W (4 * i.val + 3) (j + 1)) ^^^ if j = 0 then rcon i else 0x00) ∧
    (∀ (i : Fin 10) (c : Fin 3) (j : Fin 4),
      W (4 * i.val + c.val + 5) j = W (4 * i.val + c.val + 1) j ^^^ W (4 * i.val + c.val + 4) j)

/-- 44_cipher_pipeline.md R223 and R224, which the spec derives from R220 and R221: the step tables row by row, and that
the 40 steps in order are the two loops. -/
def Obligations.StepTablesAreTheLoops : Prop :=
  (∀ (r : Fin 11) (q : Nat), 1 ≤ r.val → r.val ≤ 9 →
    (q = 4 * (r.val - 1) →
      (stepTable .encrypt)[q + 1]? = some ⟨r, .subBytes⟩ ∧ (stepTable .encrypt)[q + 2]? = some ⟨r, .shiftRows⟩ ∧
      (stepTable .encrypt)[q + 3]? = some ⟨r, .mixColumns⟩ ∧ (stepTable .encrypt)[q + 4]? = some ⟨r, .addRoundKey⟩) ∧
    (q = 4 * (9 - r.val) →
      (stepTable .decrypt)[q + 1]? = some ⟨r, .shiftRows⟩ ∧ (stepTable .decrypt)[q + 2]? = some ⟨r, .subBytes⟩ ∧
      (stepTable .decrypt)[q + 3]? = some ⟨r, .addRoundKey⟩ ∧ (stepTable .decrypt)[q + 4]? = some ⟨r, .mixColumns⟩)) ∧
  (stepTable .encrypt)[0]? = some ⟨0, .addRoundKey⟩ ∧ (stepTable .encrypt).drop 37 =
    [⟨10, .subBytes⟩, ⟨10, .shiftRows⟩, ⟨10, .addRoundKey⟩] ∧
  (stepTable .decrypt)[0]? = some ⟨10, .addRoundKey⟩ ∧ (stepTable .decrypt).drop 37 =
    [⟨0, .shiftRows⟩, ⟨0, .subBytes⟩, ⟨0, .addRoundKey⟩] ∧
  ∀ (rk : Schedule) (b : Block),
    encodeState (stateAfter .encrypt rk b 40) = encryptBlock b rk ∧
    encodeState (stateAfter .decrypt rk b 40) = decryptBlock b rk

/-- 44_cipher_pipeline.md R222, which the spec derives from R220, R221 and 43_round_transforms.md R186. -/
def Obligations.DecryptUndoesEncrypt : Prop :=
  ∀ p k : Block, decryptBlock (encryptBlock p (expand k)) (expand k) = p

/-- 44_cipher_pipeline.md R222 on the machine: an ENCRYPT, the host's four word writes that copy DOUT to DIN, and a
DECRYPT with the same KEY leave the first DIN in DOUT. -/
def Obligations.EncryptThenDecryptGivesTheBlockBack : Prop :=
  ∀ s : State, s.busy = false → s.te = false → s.moves = [.busWrite 0x000#12 .b4 0x10100001#32, .core] →
    ∃ t u : State, runSteps 2 s = .next t ∧
      runSteps 6 { t with moves :=
        [.busWrite 0x030#12 .b4 (t.dout[3] ++ t.dout[2] ++ t.dout[1] ++ t.dout[0]),
         .busWrite 0x034#12 .b4 (t.dout[7] ++ t.dout[6] ++ t.dout[5] ++ t.dout[4]),
         .busWrite 0x038#12 .b4 (t.dout[11] ++ t.dout[10] ++ t.dout[9] ++ t.dout[8]),
         .busWrite 0x03C#12 .b4 (t.dout[15] ++ t.dout[14] ++ t.dout[13] ++ t.dout[12]),
         .busWrite 0x000#12 .b4 0x10100002#32, .core] } = .next u ∧
      u.dout = s.din ∧ u.key = s.key ∧ t.done = true ∧ u.done = true ∧ u.err = false

/-- 42_key_schedule.md R169: EXPAND_KEY and then ENCRYPT_RK or DECRYPT_RK give the same DOUT as ENCRYPT or DECRYPT with
the same KEY and DIN; the spec derives it. -/
def Obligations.StoredScheduleGivesTheSameResult : Prop :=
  ∀ s : State, s.busy = false → s.te = false →
    ∃ t u v w : State,
      runSteps 2 { s with moves := [.busWrite 0x000#12 .b4 0x10100001#32, .core] } = .next t ∧
      runSteps 4 { s with moves :=
        [.busWrite 0x000#12 .b4 0x10000003#32, .core, .busWrite 0x000#12 .b4 0x00100004#32, .core] } = .next u ∧
      runSteps 2 { s with moves := [.busWrite 0x000#12 .b4 0x10100002#32, .core] } = .next v ∧
      runSteps 4 { s with moves :=
        [.busWrite 0x000#12 .b4 0x10000003#32, .core, .busWrite 0x000#12 .b4 0x00100005#32, .core] } = .next w ∧
      t.dout = u.dout ∧ t.done = true ∧ u.done = true ∧ v.dout = w.dout ∧ v.done = true ∧ w.done = true

/-! ### The bus -/

/-- 60_exceptions.md R267 and R268: a read responds SLVERR, with data 0 and no effect, exactly for the causes listed, by
the offsets of 20_memory.md R52; every other read responds OKAY and changes nothing of the core. -/
def Obligations.BusReadsFailExactlyAsListed : Prop :=
  ∀ (s : State) (off : Offset) (n : Size) (rest : List Move), s.moves = .busRead off n :: rest →
    ((off.toNat % n.bytes ≠ 0 ∨
        (0x010 ≤ off.toNat ∧ off.toNat < 0x020) ∨ (0x060 ≤ off.toNat ∧ off.toNat < 0x100) ∨ 0x1B0 ≤ off.toNat ∨
        (off.toNat < 0x010 ∧ n ≠ .b4)) →
      step s = .next { s with moves := rest, replies := s.replies ++ [⟨.slverr, 0#32⟩] }) ∧
    (¬(off.toNat % n.bytes ≠ 0 ∨
        (0x010 ≤ off.toNat ∧ off.toNat < 0x020) ∨ (0x060 ≤ off.toNat ∧ off.toNat < 0x100) ∨ 0x1B0 ≤ off.toNat ∨
        (off.toNat < 0x010 ∧ n ≠ .b4)) →
      ∃ (data : Word) (k : Nat),
        step s = .next { s with moves := rest, draws := k, replies := s.replies ++ [⟨.okay, data⟩] })

/-- 60_exceptions.md R267 and R268: a write responds SLVERR with no effect exactly for the causes listed; every other
write responds OKAY, a CMD write among them whether or not its command fails. -/
def Obligations.BusWritesFailExactlyAsListed : Prop :=
  ∀ (s : State) (off : Offset) (n : Size) (data : Word) (rest : List Move), s.moves = .busWrite off n data :: rest →
    let fails := off.toNat % n.bytes ≠ 0 ∨
      (0x010 ≤ off.toNat ∧ off.toNat < 0x020) ∨ (0x060 ≤ off.toNat ∧ off.toNat < 0x100) ∨ 0x1B0 ≤ off.toNat ∨
      (off.toNat < 0x010 ∧ n ≠ .b4) ∨
      (0x040 ≤ off.toNat ∧ off.toNat < 0x060) ∨ (0x100 ≤ off.toNat ∧ off.toNat < 0x1B0) ∨
      (s.busy = true ∧ (off.toNat < 0x004 ∨ (0x00C ≤ off.toNat ∧ off.toNat < 0x010) ∨
        (0x020 ≤ off.toNat ∧ off.toNat < 0x040)))
    (fails → step s = .next { s with moves := rest, replies := s.replies ++ [⟨.slverr, 0#32⟩] }) ∧
    (¬fails → ∃ t, step s = .next t ∧ t.replies = s.replies ++ [⟨.okay, 0#32⟩] ∧ t.moves = rest)

/-- 20_memory.md R53 and R59: each lane of a read of a data window is the byte of its offset: KEY, DIN and DOUT always,
the STATE window at BUSY = 0, the RK window at BUSY = 0 and SV = 1. -/
def Obligations.DataWindowReadsReturnTheStoredBytes : Prop :=
  ∀ (s : State) (off : Offset) (n : Size) (rest : List Move),
    s.moves = .busRead off n :: rest → off.toNat % n.bytes = 0 →
    (0x020 ≤ off.toNat ∧ off.toNat < 0x060 ∨ 0x100 ≤ off.toNat ∧ off.toNat < 0x1B0) →
    ∃ (data : Word) (d : Nat),
      step s = .next { s with moves := rest, draws := d, replies := s.replies ++ [⟨.okay, data⟩] } ∧
      ∀ k < n.bytes, ∀ j : Fin 16,
        (off.toNat + k = 0x020 + j.val → laneByte data k = s.key[j]) ∧
        (off.toNat + k = 0x030 + j.val → laneByte data k = s.din[j]) ∧
        (off.toNat + k = 0x040 + j.val → laneByte data k = s.dout[j]) ∧
        (s.busy = false → off.toNat + k = 0x050 + j.val → laneByte data k = (encodeState s.st)[j]) ∧
        (s.busy = false → s.sv = true → ∀ i : Fin 11, off.toNat + k = 0x100 + 16 * i.val + j.val →
          laneByte data k = (encodeState s.rk[i])[j])

/-- 20_memory.md R59 and 70_reset_and_hazards.md R292: a read of the STATE window while BUSY = 1, and of the RK window
while BUSY = 1 or SV = 0, draws one fresh free byte for each lane (log 6: the model's free values). -/
def Obligations.UnspecifiedReadsDrawFreshBytes : Prop :=
  ∀ (s : State) (off : Offset) (n : Size) (rest : List Move),
    s.moves = .busRead off n :: rest → off.toNat % n.bytes = 0 →
    (0x050 ≤ off.toNat ∧ off.toNat < 0x060 ∧ s.busy = true ∨
      0x100 ≤ off.toNat ∧ off.toNat < 0x1B0 ∧ (s.busy = true ∨ s.sv = false)) →
    ∃ data : Word,
      step s = .next
        { s with moves := rest, draws := s.draws + n.bytes, replies := s.replies ++ [⟨.okay, data⟩] } ∧
      ∀ k < n.bytes, laneByte data k = Config.freeByte (s.draws + k)

/-- 20_memory.md R59, first row, with 10_state.md R24 to R27 and the error codes of 60_exceptions.md R261: what the
control registers read as, field by field and with the reserved bits 0. -/
def Obligations.ControlRegisterReads : Prop :=
  ∀ (s : State) (rest : List Move),
    (s.moves = .busRead 0x000#12 .b4 :: rest →
      step s = .next { s with moves := rest, replies := s.replies ++ [⟨.okay, s.cmd⟩] }) ∧
    (s.moves = .busRead 0x004#12 .b4 :: rest → ∃ d : Word,
      step s = .next { s with moves := rest, replies := s.replies ++ [⟨.okay, d⟩] } ∧
      d.toNat = s.ie.toNat + 2 * s.te.toNat) ∧
    (s.moves = .busRead 0x008#12 .b4 :: rest → ∃ d : Word,
      step s = .next { s with moves := rest, replies := s.replies ++ [⟨.okay, d⟩] } ∧
      d.toNat = s.busy.toNat + 2 * s.done.toNat + 4 * s.err.toNat + 8 * s.sv.toNat
        + 16 * (match s.errcode with
          | .noError => 0
          | .invalidLength => 1
          | .illegalCommand => 2
          | .noSchedule => 3)
        + 256 * (s.ie && (s.done || s.err)).toNat) ∧
    (s.moves = .busRead 0x00C#12 .b4 :: rest → ∃ d : Word,
      step s = .next { s with moves := rest, replies := s.replies ++ [⟨.okay, d⟩] } ∧
      d.toNat = s.gfA.toNat + 256 * s.gfB.toNat + 65536 * s.gfP.toNat)

/-- 20_memory.md R61, KEY and DIN: each touched byte takes the data byte of its lane, every other byte stays, and nothing
else changes; in particular RK and SV do not (70_reset_and_hazards.md R298). -/
def Obligations.KeyAndDinWritesStoreTheirLanes : Prop :=
  ∀ (s : State) (off : Offset) (n : Size) (data : Word) (rest : List Move),
    s.moves = .busWrite off n data :: rest → s.busy = false → off.toNat % n.bytes = 0 →
    ∃ b : Block,
      (0x020 ≤ off.toNat ∧ off.toNat < 0x030 →
        step s = .next { s with moves := rest, key := b, replies := s.replies ++ [⟨.okay, 0#32⟩] } ∧
        ∀ i : Fin 16,
          (∀ k < n.bytes, 0x020 + i.val = off.toNat + k → b[i] = laneByte data k) ∧
          (0x020 + i.val < off.toNat ∨ off.toNat + n.bytes ≤ 0x020 + i.val → b[i] = s.key[i])) ∧
      (0x030 ≤ off.toNat ∧ off.toNat < 0x040 →
        step s = .next { s with moves := rest, din := b, replies := s.replies ++ [⟨.okay, 0#32⟩] } ∧
        ∀ i : Fin 16,
          (∀ k < n.bytes, 0x030 + i.val = off.toNat + k → b[i] = laneByte data k) ∧
          (0x030 + i.val < off.toNat ∨ off.toNat + n.bytes ≤ 0x030 + i.val → b[i] = s.din[i]))

/-- 20_memory.md R61, CONFIG, STATUS and GF. -/
def Obligations.ControlRegisterWrites : Prop :=
  ∀ (s : State) (data : Word) (rest : List Move),
    (s.moves = .busWrite 0x004#12 .b4 data :: rest →
      step s = .next { s with
        moves := rest, ie := data.getLsbD 0, te := data.getLsbD 1, replies := s.replies ++ [⟨.okay, 0#32⟩] }) ∧
    (s.moves = .busWrite 0x008#12 .b4 data :: rest →
      step s = .next { s with
        moves := rest
        done := if data.getLsbD 1 then false else s.done
        err := if data.getLsbD 2 then false else s.err
        errcode := if data.getLsbD 2 then .noError else s.errcode
        replies := s.replies ++ [⟨.okay, 0#32⟩] }) ∧
    (s.busy = false → s.moves = .busWrite 0x00C#12 .b4 data :: rest →
      ∃ a b : Byte, a.toNat = data.toNat % 256 ∧ b.toNat = data.toNat / 256 % 256 ∧
        step s = .next { s with moves := rest, gfA := a, gfB := b, replies := s.replies ++ [⟨.okay, 0#32⟩] })

/-! ### Rules about the whole machine -/

/-- 30_encoding.md R90 and 20_memory.md R65: from a step at BUSY = 1 to the next, short of a reset, KEY, DIN, GF.A, GF.B
and the word in flight do not change; and until the completion STATE, RK, DOUT, GF.P and SV do not either. -/
def Obligations.InputsAreFrozenWhileBusy : Prop :=
  ∀ s t : State, s.busy = true → ¬resetNext s → step s = .next t →
    t.key = s.key ∧ t.din = s.din ∧ t.gfA = s.gfA ∧ t.gfB = s.gfB ∧ t.cmd = s.cmd ∧ t.lcmd = s.lcmd ∧ t.lte = s.lte ∧
    (t.busy = true → t.st = s.st ∧ t.rk = s.rk ∧ t.dout = s.dout ∧ t.gfP = s.gfP ∧ t.sv = s.sv)

/-- 10_state.md R30, R31 and R27: DOUT, STATE and GF.P change only by a reset or by the completion of one of the commands
named. -/
def Obligations.ResultsAreWrittenOnlyByCompletions : Prop :=
  ∀ s t : State, ¬resetNext s → step s = .next t →
    (t.dout ≠ s.dout → s.busy = true ∧ t.busy = false ∧ t.done = true ∧ ∃ i, decode s.lcmd = .ok i ∧
      i.fields.op ∈ [0x1#4, 0x2#4, 0x4#4, 0x5#4, 0x8#4]) ∧
    (t.st ≠ s.st → s.busy = true ∧ t.busy = false ∧ t.done = true ∧ ∃ i, decode s.lcmd = .ok i ∧
      i.fields.op ∈ [0x1#4, 0x2#4, 0x4#4, 0x5#4, 0x7#4, 0x9#4, 0xA#4, 0xB#4, 0xC#4]) ∧
    (t.gfP ≠ s.gfP → s.busy = true ∧ t.busy = false ∧ t.done = true ∧ decode s.lcmd = .ok .gfMul)

/-- 10_state.md R32: the RK store changes only at the completion of ENCRYPT, DECRYPT or EXPAND_KEY, which writes
expand(KEY) and sets SV, or at a reset; SV is cleared only at the acceptance of one of the three, or at a reset. -/
def Obligations.ScheduleIsWrittenOnlyByExpansion : Prop :=
  ∀ s t : State, ¬resetNext s → step s = .next t →
    (t.rk ≠ s.rk ∨ (s.sv = false ∧ t.sv = true) →
      s.busy = true ∧ t.busy = false ∧ t.rk = expand s.key ∧ t.sv = true ∧ ∃ i, decode s.lcmd = .ok i ∧
        i.fields.op ∈ [0x1#4, 0x2#4, 0x3#4]) ∧
    (s.sv = true ∧ t.sv = false →
      s.busy = false ∧ t.busy = true ∧ ∃ i, decode t.lcmd = .ok i ∧ i.fields.op ∈ [0x1#4, 0x2#4, 0x3#4])

/-- 10_state.md R28 and R29: no command writes KEY or DIN: they change only by a reset or by a bus write to their own
window at BUSY = 0. -/
def Obligations.KeyAndDinAreWrittenOnlyByTheHost : Prop :=
  ∀ s t : State, ¬resetNext s → step s = .next t →
    (t.key ≠ s.key → s.busy = false ∧ ∃ off n d, s.moves.head? = some (.busWrite off n d) ∧
      0x020 ≤ off.toNat ∧ off.toNat < 0x030) ∧
    (t.din ≠ s.din → s.busy = false ∧ ∃ off n d, s.moves.head? = some (.busWrite off n d) ∧
      0x030 ≤ off.toNat ∧ off.toNat < 0x040)

/-- 60_exceptions.md R269 to R271: IRQ is a level. R270 lists what clears it, and says, as the spec derives, that a DONE
or ERR that came while IE = 0 raises it as soon as IE is set. In order: a CONFIG write raises or masks what is pending; a
STATUS write drops the outcomes whose bit is 1; a CMD write that is not refused drops both, and then a command error,
which leaves BUSY = 0, raises IRQ at IE = 1; a reset drops it; a completion raises it at IE = 1. -/
def Obligations.InterruptIsALevel : Prop :=
  ∀ (s : State) (data : Word) (rest : List Move),
    (s.moves = .busWrite 0x004#12 .b4 data :: rest →
      ∃ t, step s = .next t ∧ t.irq = (data.getLsbD 0 && (s.done || s.err)) ∧ t.done = s.done ∧ t.err = s.err) ∧
    (s.moves = .busWrite 0x008#12 .b4 data :: rest →
      ∃ t, step s = .next t ∧ t.done = (s.done && !data.getLsbD 1) ∧ t.err = (s.err && !data.getLsbD 2) ∧
        t.irq = (s.ie && ((s.done && !data.getLsbD 1) || (s.err && !data.getLsbD 2)))) ∧
    (s.moves = .busWrite 0x000#12 .b4 data :: rest → s.busy = false →
      ∃ t, step s = .next t ∧ t.done = false ∧ t.err = !t.busy ∧ t.irq = (s.ie && !t.busy) ∧
        (legal data = false → t.busy = false)) ∧
    (s.moves = .reset :: rest → ∃ t, step s = .next t ∧ t.irq = false) ∧
    (s.busy = true → coreNext s → ∀ t, step s = .next t → t.busy = false → t.done = true ∧ t.irq = s.ie)

/-- 70_reset_and_hazards.md R290: what reset leaves, for each register the spec gives a reset value. -/
def Obligations.ResetValues : Prop :=
  let s := State.reset
  s.cmd = 0#32 ∧ s.configWord = 0#32 ∧ s.statusWord = 0#32 ∧ s.gfWord = 0#32 ∧
  (∀ i : Fin 16, s.key[i] = 0x00#8 ∧ s.din[i] = 0x00#8 ∧ s.dout[i] = 0x00#8) ∧
  (∀ r c : Fin 4, s.st.at r c = 0x00#8) ∧
  s.lcmd = 0#32 ∧ s.lte = false ∧ s.seq = 0 ∧ s.tq = none ∧ s.irq = false ∧ s.busy = false ∧ s.sv = false

/-- 70_reset_and_hazards.md R290 and R291: the reset event, at any step: every register the spec gives a reset value has
it, a command in flight is gone with its waiting event, and what the sink has accepted stays delivered. That the host's
replies and the moves still listed stay too is the model's choice (log 14). -/
def Obligations.ResetEventAbortsAndResets : Prop :=
  ∀ (s : State) (rest : List Move), s.moves = .reset :: rest →
    ∃ t, step s = .next t ∧
      t.cmd = 0#32 ∧ t.configWord = 0#32 ∧ t.statusWord = 0#32 ∧ t.gfWord = 0#32 ∧
      (∀ i : Fin 16, t.key[i] = 0x00#8 ∧ t.din[i] = 0x00#8 ∧ t.dout[i] = 0x00#8) ∧
      (∀ r c : Fin 4, t.st.at r c = 0x00#8) ∧
      t.lcmd = 0#32 ∧ t.lte = false ∧ t.seq = 0 ∧ t.tq = none ∧ t.irq = false ∧ t.busy = false ∧
      t.delivered = s.delivered ∧ t.replies = s.replies ∧ t.moves = rest

/-- 70_reset_and_hazards.md R292: before the first completed expansion nothing depends on the contents of the RK store:
two states that differ only there take steps that differ only there, or the step makes SV 1 and they agree. -/
def Obligations.UnwrittenScheduleIsNeverRead : Prop :=
  ∀ (s t : State) (x : Schedule), Invariant s → s.sv = false → step s = .next t →
    ∃ y : Schedule, step { s with rk := x } = .next { t with rk := y } ∧ (t.sv = true → y = t.rk)

/-- The invariant holds right after reset. -/
def Obligations.InvariantAtReset : Prop := Invariant State.reset

/-- Every step of every agent keeps the invariant. The spec derives from 30_encoding.md R89 to R91 that DONE and ERR are
never both 1 (10_state.md R26); how scratch holds the progress of 44_cipher_pipeline.md R227 is the model's (log 9). -/
def Obligations.StepKeepsTheInvariant : Prop :=
  ∀ s t : State, Invariant s → step s = .next t → Invariant t

/-- 44_cipher_pipeline.md R235 and 60_exceptions.md R271: the core takes no traps: from a state of the invariant every
step of every agent gives a next state. -/
def Obligations.NoStepEverStops : Prop :=
  ∀ s : State, Invariant s → ∃ t, step s = .next t
end

