-- ==== Sys2Proof/Laws/Matrix.lean ====
section
/-!
SUPPORT. The small lemmas of matrices, blocks and the codec: what an element of each construction is, and when two are
equal.
-/

namespace Sys2Proof

@[simp] theorem Mat.at_of (f : Fin 4 → Fin 4 → Byte) (r c : Fin 4) : (Mat.of f).at r c = f r c := by
  simp [Mat.at, Mat.of]

theorem Mat.ext_at {s t : Mat} (h : ∀ r c, s.at r c = t.at r c) : s = t := by
  apply Vector.ext
  intro r hr
  apply Vector.ext
  intro c hc
  exact h ⟨r, hr⟩ ⟨c, hc⟩

@[simp] theorem Mat.of_at (s : Mat) : Mat.of (fun r c => s.at r c) = s := Mat.ext_at fun r c => by simp

namespace Machine

@[simp] theorem decodeBlock_at (b : Block) (r c : Fin 4) :
    (decodeBlock b).at r c = b[r.val + 4 * c.val]'(by omega) := by
  simp [decodeBlock]

@[simp] theorem encodeState_get (s : Mat) (i : Nat) (h : i < 16) :
    (encodeState s)[i] = s.at ⟨i % 4, by omega⟩ ⟨i / 4, by omega⟩ := by
  simp [encodeState]

@[simp] theorem subBytes_forward_at (s : Mat) (r c : Fin 4) : (subBytes .forward s).at r c = sbox (s.at r c) := by
  simp [subBytes]

@[simp] theorem subBytes_inverse_at (s : Mat) (r c : Fin 4) : (subBytes .inverse s).at r c = invSbox (s.at r c) := by
  simp [subBytes]

@[simp] theorem shiftRows_forward_at (s : Mat) (r c : Fin 4) : (shiftRows .forward s).at r c = s.at r (c + r) := by
  simp [shiftRows]

@[simp] theorem shiftRows_inverse_at (s : Mat) (r c : Fin 4) : (shiftRows .inverse s).at r c = s.at r (c - r) := by
  simp [shiftRows]

@[simp] theorem addRoundKey_at (s k : Mat) (r c : Fin 4) : (addRoundKey s k).at r c = s.at r c ^^^ k.at r c := by
  simp [addRoundKey]

theorem mixWith_at (m s : Mat) (r c : Fin 4) :
    (mixWith m s).at r c =
      gmul (m.at r 0) (s.at 0 c) ^^^ gmul (m.at r 1) (s.at 1 c) ^^^ gmul (m.at r 2) (s.at 2 c)
        ^^^ gmul (m.at r 3) (s.at 3 c) := by
  simp [mixWith]

/-- The entries of the matrix of 43_round_transforms.md R183. -/
@[simp] theorem mixMatrix_entries :
    mixMatrix.at 0 0 = 0x02#8 ∧ mixMatrix.at 0 1 = 0x03#8 ∧ mixMatrix.at 0 2 = 0x01#8 ∧ mixMatrix.at 0 3 = 0x01#8 ∧
    mixMatrix.at 1 0 = 0x01#8 ∧ mixMatrix.at 1 1 = 0x02#8 ∧ mixMatrix.at 1 2 = 0x03#8 ∧ mixMatrix.at 1 3 = 0x01#8 ∧
    mixMatrix.at 2 0 = 0x01#8 ∧ mixMatrix.at 2 1 = 0x01#8 ∧ mixMatrix.at 2 2 = 0x02#8 ∧ mixMatrix.at 2 3 = 0x03#8 ∧
    mixMatrix.at 3 0 = 0x03#8 ∧ mixMatrix.at 3 1 = 0x01#8 ∧ mixMatrix.at 3 2 = 0x01#8 ∧ mixMatrix.at 3 3 = 0x02#8 := by
  decide

/-- The entries of the matrix of 43_round_transforms.md R184. -/
@[simp] theorem mixMatrixInv_entries :
    mixMatrixInv.at 0 0 = 0x0E#8 ∧ mixMatrixInv.at 0 1 = 0x0B#8 ∧ mixMatrixInv.at 0 2 = 0x0D#8 ∧ mixMatrixInv.at 0 3 = 0x09#8 ∧
    mixMatrixInv.at 1 0 = 0x09#8 ∧ mixMatrixInv.at 1 1 = 0x0E#8 ∧ mixMatrixInv.at 1 2 = 0x0B#8 ∧ mixMatrixInv.at 1 3 = 0x0D#8 ∧
    mixMatrixInv.at 2 0 = 0x0D#8 ∧ mixMatrixInv.at 2 1 = 0x09#8 ∧ mixMatrixInv.at 2 2 = 0x0E#8 ∧ mixMatrixInv.at 2 3 = 0x0B#8 ∧
    mixMatrixInv.at 3 0 = 0x0B#8 ∧ mixMatrixInv.at 3 1 = 0x0D#8 ∧ mixMatrixInv.at 3 2 = 0x09#8 ∧ mixMatrixInv.at 3 3 = 0x0E#8 := by
  decide

theorem nextRoundKey_at (i : Fin 10) (p : Mat) (r c : Fin 4) :
    (nextRoundKey i p).at r c = scheduleColumn p (scheduleWord i p) r c.val := by
  simp [nextRoundKey]

@[simp] theorem expand_get (key : Block) (i : Nat) (h : i < 11) : (expand key)[i] = roundKey key i := by
  simp [expand]

/-- A fold over the step table is a fold over its first part and then its rest: `s_{k+1}` from `s_k`. -/
theorem stateAfter_succ (c : Cipher) (rk : Schedule) (b : Block) {k : Nat} {p : PipeStep}
    (h : (stepTable c)[k]? = some p) :
    stateAfter c rk b (k + 1) = applyStep c rk (stateAfter c rk b k) p := by
  simp [stateAfter, List.take_add_one, h, List.foldl_append]

@[simp] theorem stateAfter_zero (c : Cipher) (rk : Schedule) (b : Block) : stateAfter c rk b 0 = decodeBlock b := by
  simp [stateAfter]

theorem stepTable_length (c : Cipher) : (stepTable c).length = 40 := by
  cases c <;> rfl

end Machine

end Sys2Proof
end

