-- ==== Sys2Proof/Laws/State.lean ====
section
/-!
SUPPORT. For each update of the state, one fact per field, by definition: each theorem is a conjunction over the fields,
and simp uses each part as a rewrite rule. So no later proof unfolds a record update.
-/

namespace Sys2Proof.Machine

@[simp] theorem clearDone_fields (s : State) :
    (clearDone s).cmd = s.cmd ∧
    (clearDone s).ie = s.ie ∧
    (clearDone s).te = s.te ∧
    (clearDone s).busy = s.busy ∧
    (clearDone s).done = false ∧
    (clearDone s).err = s.err ∧
    (clearDone s).sv = s.sv ∧
    (clearDone s).errcode = s.errcode ∧
    (clearDone s).gfA = s.gfA ∧
    (clearDone s).gfB = s.gfB ∧
    (clearDone s).gfP = s.gfP ∧
    (clearDone s).key = s.key ∧
    (clearDone s).din = s.din ∧
    (clearDone s).dout = s.dout ∧
    (clearDone s).st = s.st ∧
    (clearDone s).rk = s.rk ∧
    (clearDone s).lcmd = s.lcmd ∧
    (clearDone s).lte = s.lte ∧
    (clearDone s).seq = s.seq ∧
    (clearDone s).tq = s.tq ∧
    (clearDone s).scratch = s.scratch ∧
    (clearDone s).delivered = s.delivered ∧
    (clearDone s).replies = s.replies ∧
    (clearDone s).moves = s.moves ∧
    (clearDone s).draws = s.draws :=
  ⟨rfl, rfl, rfl, rfl, rfl, rfl, rfl, rfl, rfl, rfl, rfl, rfl, rfl, rfl, rfl, rfl, rfl, rfl, rfl, rfl, rfl, rfl, rfl, rfl, rfl⟩

@[simp] theorem clearErr_fields (s : State) :
    (clearErr s).cmd = s.cmd ∧
    (clearErr s).ie = s.ie ∧
    (clearErr s).te = s.te ∧
    (clearErr s).busy = s.busy ∧
    (clearErr s).done = s.done ∧
    (clearErr s).err = false ∧
    (clearErr s).sv = s.sv ∧
    (clearErr s).errcode = .noError ∧
    (clearErr s).gfA = s.gfA ∧
    (clearErr s).gfB = s.gfB ∧
    (clearErr s).gfP = s.gfP ∧
    (clearErr s).key = s.key ∧
    (clearErr s).din = s.din ∧
    (clearErr s).dout = s.dout ∧
    (clearErr s).st = s.st ∧
    (clearErr s).rk = s.rk ∧
    (clearErr s).lcmd = s.lcmd ∧
    (clearErr s).lte = s.lte ∧
    (clearErr s).seq = s.seq ∧
    (clearErr s).tq = s.tq ∧
    (clearErr s).scratch = s.scratch ∧
    (clearErr s).delivered = s.delivered ∧
    (clearErr s).replies = s.replies ∧
    (clearErr s).moves = s.moves ∧
    (clearErr s).draws = s.draws :=
  ⟨rfl, rfl, rfl, rfl, rfl, rfl, rfl, rfl, rfl, rfl, rfl, rfl, rfl, rfl, rfl, rfl, rfl, rfl, rfl, rfl, rfl, rfl, rfl, rfl, rfl⟩

@[simp] theorem clearOutcome_fields (s : State) :
    (clearOutcome s).cmd = s.cmd ∧
    (clearOutcome s).ie = s.ie ∧
    (clearOutcome s).te = s.te ∧
    (clearOutcome s).busy = s.busy ∧
    (clearOutcome s).done = false ∧
    (clearOutcome s).err = false ∧
    (clearOutcome s).sv = s.sv ∧
    (clearOutcome s).errcode = .noError ∧
    (clearOutcome s).gfA = s.gfA ∧
    (clearOutcome s).gfB = s.gfB ∧
    (clearOutcome s).gfP = s.gfP ∧
    (clearOutcome s).key = s.key ∧
    (clearOutcome s).din = s.din ∧
    (clearOutcome s).dout = s.dout ∧
    (clearOutcome s).st = s.st ∧
    (clearOutcome s).rk = s.rk ∧
    (clearOutcome s).lcmd = s.lcmd ∧
    (clearOutcome s).lte = s.lte ∧
    (clearOutcome s).seq = s.seq ∧
    (clearOutcome s).tq = s.tq ∧
    (clearOutcome s).scratch = s.scratch ∧
    (clearOutcome s).delivered = s.delivered ∧
    (clearOutcome s).replies = s.replies ∧
    (clearOutcome s).moves = s.moves ∧
    (clearOutcome s).draws = s.draws :=
  ⟨rfl, rfl, rfl, rfl, rfl, rfl, rfl, rfl, rfl, rfl, rfl, rfl, rfl, rfl, rfl, rfl, rfl, rfl, rfl, rfl, rfl, rfl, rfl, rfl, rfl⟩

@[simp] theorem raiseCmdError_fields (code : ErrCode) (s : State) :
    (raiseCmdError code s).cmd = s.cmd ∧
    (raiseCmdError code s).ie = s.ie ∧
    (raiseCmdError code s).te = s.te ∧
    (raiseCmdError code s).busy = s.busy ∧
    (raiseCmdError code s).done = s.done ∧
    (raiseCmdError code s).err = true ∧
    (raiseCmdError code s).sv = s.sv ∧
    (raiseCmdError code s).errcode = code ∧
    (raiseCmdError code s).gfA = s.gfA ∧
    (raiseCmdError code s).gfB = s.gfB ∧
    (raiseCmdError code s).gfP = s.gfP ∧
    (raiseCmdError code s).key = s.key ∧
    (raiseCmdError code s).din = s.din ∧
    (raiseCmdError code s).dout = s.dout ∧
    (raiseCmdError code s).st = s.st ∧
    (raiseCmdError code s).rk = s.rk ∧
    (raiseCmdError code s).lcmd = s.lcmd ∧
    (raiseCmdError code s).lte = s.lte ∧
    (raiseCmdError code s).seq = s.seq ∧
    (raiseCmdError code s).tq = s.tq ∧
    (raiseCmdError code s).scratch = s.scratch ∧
    (raiseCmdError code s).delivered = s.delivered ∧
    (raiseCmdError code s).replies = s.replies ∧
    (raiseCmdError code s).moves = s.moves ∧
    (raiseCmdError code s).draws = s.draws :=
  ⟨rfl, rfl, rfl, rfl, rfl, rfl, rfl, rfl, rfl, rfl, rfl, rfl, rfl, rfl, rfl, rfl, rfl, rfl, rfl, rfl, rfl, rfl, rfl, rfl, rfl⟩

@[simp] theorem accept_fields (i : Instr) (s : State) :
    (accept i s).cmd = s.cmd ∧
    (accept i s).ie = s.ie ∧
    (accept i s).te = s.te ∧
    (accept i s).busy = true ∧
    (accept i s).done = s.done ∧
    (accept i s).err = s.err ∧
    (accept i s).sv = (if writesSched i then false else s.sv) ∧
    (accept i s).errcode = s.errcode ∧
    (accept i s).gfA = s.gfA ∧
    (accept i s).gfB = s.gfB ∧
    (accept i s).gfP = s.gfP ∧
    (accept i s).key = s.key ∧
    (accept i s).din = s.din ∧
    (accept i s).dout = s.dout ∧
    (accept i s).st = s.st ∧
    (accept i s).rk = s.rk ∧
    (accept i s).lcmd = encode i ∧
    (accept i s).lte = s.te ∧
    (accept i s).seq = 0 ∧
    (accept i s).tq = none ∧
    (accept i s).scratch = acceptScratch i s ∧
    (accept i s).delivered = s.delivered ∧
    (accept i s).replies = s.replies ∧
    (accept i s).moves = s.moves ∧
    (accept i s).draws = s.draws :=
  ⟨rfl, rfl, rfl, rfl, rfl, rfl, rfl, rfl, rfl, rfl, rfl, rfl, rfl, rfl, rfl, rfl, rfl, rfl, rfl, rfl, rfl, rfl, rfl, rfl, rfl⟩

@[simp] theorem complete_fields (s : State) :
    (complete s).cmd = s.cmd ∧
    (complete s).ie = s.ie ∧
    (complete s).te = s.te ∧
    (complete s).busy = false ∧
    (complete s).done = true ∧
    (complete s).err = s.err ∧
    (complete s).sv = s.sv ∧
    (complete s).errcode = s.errcode ∧
    (complete s).gfA = s.gfA ∧
    (complete s).gfB = s.gfB ∧
    (complete s).gfP = s.gfP ∧
    (complete s).key = s.key ∧
    (complete s).din = s.din ∧
    (complete s).dout = s.dout ∧
    (complete s).st = s.st ∧
    (complete s).rk = s.rk ∧
    (complete s).lcmd = s.lcmd ∧
    (complete s).lte = s.lte ∧
    (complete s).seq = s.seq ∧
    (complete s).tq = s.tq ∧
    (complete s).scratch = s.scratch ∧
    (complete s).delivered = s.delivered ∧
    (complete s).replies = s.replies ∧
    (complete s).moves = s.moves ∧
    (complete s).draws = s.draws :=
  ⟨rfl, rfl, rfl, rfl, rfl, rfl, rfl, rfl, rfl, rfl, rfl, rfl, rfl, rfl, rfl, rfl, rfl, rfl, rfl, rfl, rfl, rfl, rfl, rfl, rfl⟩

@[simp] theorem writeSchedule_fields (s : State) :
    (writeSchedule s).cmd = s.cmd ∧
    (writeSchedule s).ie = s.ie ∧
    (writeSchedule s).te = s.te ∧
    (writeSchedule s).busy = s.busy ∧
    (writeSchedule s).done = s.done ∧
    (writeSchedule s).err = s.err ∧
    (writeSchedule s).sv = true ∧
    (writeSchedule s).errcode = s.errcode ∧
    (writeSchedule s).gfA = s.gfA ∧
    (writeSchedule s).gfB = s.gfB ∧
    (writeSchedule s).gfP = s.gfP ∧
    (writeSchedule s).key = s.key ∧
    (writeSchedule s).din = s.din ∧
    (writeSchedule s).dout = s.dout ∧
    (writeSchedule s).st = s.st ∧
    (writeSchedule s).rk = expand s.key ∧
    (writeSchedule s).lcmd = s.lcmd ∧
    (writeSchedule s).lte = s.lte ∧
    (writeSchedule s).seq = s.seq ∧
    (writeSchedule s).tq = s.tq ∧
    (writeSchedule s).scratch = s.scratch ∧
    (writeSchedule s).delivered = s.delivered ∧
    (writeSchedule s).replies = s.replies ∧
    (writeSchedule s).moves = s.moves ∧
    (writeSchedule s).draws = s.draws :=
  ⟨rfl, rfl, rfl, rfl, rfl, rfl, rfl, rfl, rfl, rfl, rfl, rfl, rfl, rfl, rfl, rfl, rfl, rfl, rfl, rfl, rfl, rfl, rfl, rfl, rfl⟩

@[simp] theorem writeCipherResult_fields (c : Cipher) (rk : Schedule) (s : State) :
    (writeCipherResult c rk s).cmd = s.cmd ∧
    (writeCipherResult c rk s).ie = s.ie ∧
    (writeCipherResult c rk s).te = s.te ∧
    (writeCipherResult c rk s).busy = s.busy ∧
    (writeCipherResult c rk s).done = s.done ∧
    (writeCipherResult c rk s).err = s.err ∧
    (writeCipherResult c rk s).sv = s.sv ∧
    (writeCipherResult c rk s).errcode = s.errcode ∧
    (writeCipherResult c rk s).gfA = s.gfA ∧
    (writeCipherResult c rk s).gfB = s.gfB ∧
    (writeCipherResult c rk s).gfP = s.gfP ∧
    (writeCipherResult c rk s).key = s.key ∧
    (writeCipherResult c rk s).din = s.din ∧
    (writeCipherResult c rk s).dout = encodeState (decodeBlock (cipherBlock c s.din rk)) ∧
    (writeCipherResult c rk s).st = decodeBlock (cipherBlock c s.din rk) ∧
    (writeCipherResult c rk s).rk = s.rk ∧
    (writeCipherResult c rk s).lcmd = s.lcmd ∧
    (writeCipherResult c rk s).lte = s.lte ∧
    (writeCipherResult c rk s).seq = 40 ∧
    (writeCipherResult c rk s).tq = s.tq ∧
    (writeCipherResult c rk s).scratch = s.scratch ∧
    (writeCipherResult c rk s).delivered = s.delivered ∧
    (writeCipherResult c rk s).replies = s.replies ∧
    (writeCipherResult c rk s).moves = s.moves ∧
    (writeCipherResult c rk s).draws = s.draws := by
  simp only [writeCipherResult, and_self]

@[simp] theorem addReply_fields (r : BusReply) (s : State) :
    (addReply r s).cmd = s.cmd ∧
    (addReply r s).ie = s.ie ∧
    (addReply r s).te = s.te ∧
    (addReply r s).busy = s.busy ∧
    (addReply r s).done = s.done ∧
    (addReply r s).err = s.err ∧
    (addReply r s).sv = s.sv ∧
    (addReply r s).errcode = s.errcode ∧
    (addReply r s).gfA = s.gfA ∧
    (addReply r s).gfB = s.gfB ∧
    (addReply r s).gfP = s.gfP ∧
    (addReply r s).key = s.key ∧
    (addReply r s).din = s.din ∧
    (addReply r s).dout = s.dout ∧
    (addReply r s).st = s.st ∧
    (addReply r s).rk = s.rk ∧
    (addReply r s).lcmd = s.lcmd ∧
    (addReply r s).lte = s.lte ∧
    (addReply r s).seq = s.seq ∧
    (addReply r s).tq = s.tq ∧
    (addReply r s).scratch = s.scratch ∧
    (addReply r s).delivered = s.delivered ∧
    (addReply r s).replies = s.replies ++ [r] ∧
    (addReply r s).moves = s.moves ∧
    (addReply r s).draws = s.draws :=
  ⟨rfl, rfl, rfl, rfl, rfl, rfl, rfl, rfl, rfl, rfl, rfl, rfl, rfl, rfl, rfl, rfl, rfl, rfl, rfl, rfl, rfl, rfl, rfl, rfl, rfl⟩

@[simp] theorem resetEvent_fields (s : State) :
    (resetEvent s).cmd = State.reset.cmd ∧
    (resetEvent s).ie = State.reset.ie ∧
    (resetEvent s).te = State.reset.te ∧
    (resetEvent s).busy = State.reset.busy ∧
    (resetEvent s).done = State.reset.done ∧
    (resetEvent s).err = State.reset.err ∧
    (resetEvent s).sv = State.reset.sv ∧
    (resetEvent s).errcode = State.reset.errcode ∧
    (resetEvent s).gfA = State.reset.gfA ∧
    (resetEvent s).gfB = State.reset.gfB ∧
    (resetEvent s).gfP = State.reset.gfP ∧
    (resetEvent s).key = State.reset.key ∧
    (resetEvent s).din = State.reset.din ∧
    (resetEvent s).dout = State.reset.dout ∧
    (resetEvent s).st = State.reset.st ∧
    (resetEvent s).rk = State.reset.rk ∧
    (resetEvent s).lcmd = State.reset.lcmd ∧
    (resetEvent s).lte = State.reset.lte ∧
    (resetEvent s).seq = State.reset.seq ∧
    (resetEvent s).tq = State.reset.tq ∧
    (resetEvent s).scratch = State.reset.scratch ∧
    (resetEvent s).delivered = s.delivered ∧
    (resetEvent s).replies = s.replies ∧
    (resetEvent s).moves = s.moves ∧
    (resetEvent s).draws = s.draws :=
  ⟨rfl, rfl, rfl, rfl, rfl, rfl, rfl, rfl, rfl, rfl, rfl, rfl, rfl, rfl, rfl, rfl, rfl, rfl, rfl, rfl, rfl, rfl, rfl, rfl, rfl⟩

end Sys2Proof.Machine
end

