-- ==== Sys2Proof/Laws/Ops.lean ====
section
/-!
SUPPORT. What each shared operation can do, said once: dispatch, the core's step of a pipeline command, the step of any
command, and the bus operations.
-/

namespace Sys2Proof.Machine

/-! ### Dispatch -/

theorem dispatchCommand_error {i : Instr} {s : State} {code : ErrCode} (h : commandError i s.sv = some code) :
    dispatchCommand i s = raiseCmdError code (clearOutcome s) := by
  simp [dispatchCommand, h]

theorem dispatchCommand_accept {i : Instr} {s : State} (h : commandError i s.sv = none) :
    dispatchCommand i s = accept i (clearOutcome s) := by
  simp [dispatchCommand, h]

/-- The dispatch of a command either raises an error, which is never NONE, or accepts it. -/
theorem dispatchCommand_cases (i : Instr) (s : State) :
    (∃ code, commandError i s.sv = some code ∧ dispatchCommand i s = raiseCmdError code (clearOutcome s)) ∨
      (commandError i s.sv = none ∧ dispatchCommand i s = accept i (clearOutcome s)) := by
  cases h : commandError i s.sv with
  | some code => exact .inl ⟨code, rfl, dispatchCommand_error h⟩
  | none => exact .inr ⟨rfl, dispatchCommand_accept h⟩

theorem commandError_ne_noError (i : Instr) (sv : Bool) : commandError i sv ≠ some .noError := by
  unfold commandError
  split_ifs <;> simp

/-- A command that passes the checks is well formed, declares lengths of 16, and has a schedule if it needs one. -/
theorem commandError_eq_none {i : Instr} {sv : Bool} :
    commandError i sv = none ↔
      i.wellFormed = true ∧ wrongLength (blenOf i) = false ∧ wrongLength (klenOf i) = false ∧
        (needsSched i = true → sv = true) := by
  unfold commandError
  split_ifs <;> simp_all

theorem exec_idle {s : State} (h : s.busy = false) (i : Instr) : exec i s = .next (dispatchCommand i s) := by
  cases i <;>
    simp [exec, execEncrypt, execDecrypt, execExpandKey, execEncryptRk, execDecryptRk, execGfMul, execLoadState,
      execStoreState, execSubBytes, execShiftRows, execMixColumns, execAddRoundKey, runPhases, h]

/-! ### A command in flight -/

/-- What the completion of a command makes of the state (30_encoding.md R91). -/
def completed : Instr → State → State
  | .encrypt _ _, s => finishExpanded .encrypt s
  | .decrypt _ _, s => finishExpanded .decrypt s
  | .expandKey _, s => complete (writeSchedule s)
  | .encryptRk _, s => finishStored .encrypt s
  | .decryptRk _, s => finishStored .decrypt s
  | .gfMul, s => complete { s with gfP := gmul s.gfA s.gfB }
  | .loadState _, s => complete { s with st := decodeBlock s.din }
  | .storeState, s => complete { s with dout := encodeState s.st }
  | .subBytes dir, s => complete { s with st := subBytes dir s.st }
  | .shiftRows dir, s => complete { s with st := shiftRows dir s.st }
  | .mixColumns dir, s => complete { s with st := mixColumns dir s.st }
  | .addRoundKey rnd, s => complete { s with st := addRoundKey s.st (s.rk[rnd.toNat]?.getD Mat.zero) }

/-- The three things a pipeline command in flight can do. -/
theorem pipelineStep_cases (c : Cipher) (finish : State → State) (s : State) :
    (s.lte = true ∧ (∃ e, s.tq = some e) ∧ pipelineStep c finish s = .next s) ∨
      (s.lte = true ∧ s.tq = none ∧
        ∃ p, (stepTable c)[s.seq]? = some p ∧ pipelineStep c finish s = .next (emitEvent c p s)) ∨
      ((s.lte = true → s.tq = none ∧ (stepTable c)[s.seq]? = none) ∧
        pipelineStep c finish s = .next (finish s)) := by
  unfold pipelineStep
  cases hl : s.lte with
  | false => simp
  | true =>
    cases ht : s.tq with
    | some e => simp
    | none =>
      cases hp : (stepTable c)[s.seq]? with
      | some p => simp
      | none => simp

/-- What a command in flight can do: wait for the sink, emit its next trace event, or complete. -/
def BusyStep (i : Instr) (s : State) : Prop :=
  ((∃ c, cipherOf i = some c) ∧ s.lte = true ∧ (∃ e, s.tq = some e) ∧ exec i s = .next s) ∨
    (∃ c p, cipherOf i = some c ∧ s.lte = true ∧ s.tq = none ∧ (stepTable c)[s.seq]? = some p ∧
      exec i s = .next (emitEvent c p s)) ∨
    ((∀ c, cipherOf i = some c → s.lte = true → s.tq = none ∧ (stepTable c)[s.seq]? = none) ∧
      exec i s = .next (completed i s))

theorem BusyStep.of_pipeline {i : Instr} {s : State} {c : Cipher} (finish : State → State) (hc : cipherOf i = some c)
    (he : exec i s = pipelineStep c finish s) (hf : finish s = completed i s) : BusyStep i s := by
  rcases pipelineStep_cases c finish s with ⟨h1, h2, h3⟩ | ⟨h1, h2, p, h3, h4⟩ | ⟨h1, h2⟩
  · exact .inl ⟨⟨c, hc⟩, h1, h2, he.trans h3⟩
  · exact .inr (.inl ⟨c, p, hc, h1, h2, h3, he.trans h4⟩)
  · refine .inr (.inr ⟨fun c' hc' hl => ?_, he.trans (h2.trans (by rw [hf]))⟩)
    rw [hc] at hc'
    cases hc'
    exact h1 hl

theorem BusyStep.of_single {i : Instr} {s : State} (hc : cipherOf i = none) (he : exec i s = .next (completed i s)) :
    BusyStep i s :=
  .inr (.inr ⟨fun c hc' => (by rw [hc] at hc'; cases hc'), he⟩)

/-- A well-formed command in flight waits for the sink, emits its next trace event, or completes. -/
theorem exec_busy_cases {s : State} (h : s.busy = true) {i : Instr} (hw : i.wellFormed = true) : BusyStep i s := by
  cases i with
  | encrypt b k =>
    exact .of_pipeline (finishExpanded .encrypt) rfl (by simp only [exec, execEncrypt, runPhases, h, if_true]) rfl
  | decrypt b k =>
    exact .of_pipeline (finishExpanded .decrypt) rfl (by simp only [exec, execDecrypt, runPhases, h, if_true]) rfl
  | encryptRk b =>
    exact .of_pipeline (finishStored .encrypt) rfl (by simp only [exec, execEncryptRk, runPhases, h, if_true]) rfl
  | decryptRk b =>
    exact .of_pipeline (finishStored .decrypt) rfl (by simp only [exec, execDecryptRk, runPhases, h, if_true]) rfl
  | expandKey k => exact .of_single rfl (by simp only [exec, execExpandKey, runPhases, h, if_true, completed])
  | gfMul => exact .of_single rfl (by simp only [exec, execGfMul, runPhases, h, if_true, completed])
  | loadState b => exact .of_single rfl (by simp only [exec, execLoadState, runPhases, h, if_true, completed])
  | storeState => exact .of_single rfl (by simp only [exec, execStoreState, runPhases, h, if_true, completed])
  | subBytes d => exact .of_single rfl (by simp only [exec, execSubBytes, runPhases, h, if_true, completed])
  | shiftRows d => exact .of_single rfl (by simp only [exec, execShiftRows, runPhases, h, if_true, completed])
  | mixColumns d => exact .of_single rfl (by simp only [exec, execMixColumns, runPhases, h, if_true, completed])
  | addRoundKey rnd =>
    refine .of_single rfl ?_
    have hr : rnd.toNat < 11 := by
      have := of_decide_eq_true hw
      omega
    simp only [exec, execAddRoundKey, runPhases, h, if_true, addRoundKeyStep, roundKeyAt, completed,
      Vector.getElem?_eq_getElem hr, Option.getD_some]

/-- What a completion leaves alone: everything but its results and the end of the command. -/
theorem completed_frame (i : Instr) (s : State) :
    (completed i s).cmd = s.cmd ∧ (completed i s).ie = s.ie ∧ (completed i s).te = s.te ∧
    (completed i s).busy = false ∧ (completed i s).done = true ∧ (completed i s).err = s.err ∧
    (completed i s).errcode = s.errcode ∧ (completed i s).gfA = s.gfA ∧ (completed i s).gfB = s.gfB ∧
    (completed i s).key = s.key ∧ (completed i s).din = s.din ∧ (completed i s).lcmd = s.lcmd ∧
    (completed i s).lte = s.lte ∧ (completed i s).tq = s.tq ∧ (completed i s).scratch = s.scratch ∧
    (completed i s).delivered = s.delivered ∧ (completed i s).replies = s.replies ∧
    (completed i s).moves = s.moves ∧ (completed i s).draws = s.draws := by
  cases i <;> simp [completed, finishExpanded, finishStored]

/-- The schedule after a completion: expand(KEY) with SV = 1, or what it was. -/
theorem completed_schedule (i : Instr) (s : State) :
    (completed i s).rk = (if writesSched i then expand s.key else s.rk) ∧
    (completed i s).sv = (if writesSched i then true else s.sv) := by
  cases i <;> simp [completed, finishExpanded, finishStored, writesSched]

/-- The cipher commands write the result to STATE and DOUT and end with seq = 40. -/
theorem completed_cipher {i : Instr} {c : Cipher} (h : cipherOf i = some c) (s : State) :
    (completed i s).st = decodeBlock (cipherBlock c s.din (scheduleOf i s)) ∧
    (completed i s).dout = encodeState (decodeBlock (cipherBlock c s.din (scheduleOf i s))) ∧
    (completed i s).seq = 40 ∧ (completed i s).gfP = s.gfP := by
  cases i <;> cases h <;> simp [completed, finishExpanded, finishStored, scheduleOf, writesSched]

/-- The other commands leave seq alone. -/
theorem completed_seq {i : Instr} (h : cipherOf i = none) (s : State) : (completed i s).seq = s.seq := by
  cases i <;> cases h <;> simp [completed]

/-- What an emission leaves alone: everything but TQ, seq and scratch. -/
theorem emitEvent_eq (c : Cipher) (p : PipeStep) (s : State) :
    emitEvent c p s =
      { s with
        tq := (emitEvent c p s).tq, seq := (emitEvent c p s).seq, scratch := (emitEvent c p s).scratch } := by
  unfold emitEvent
  split <;> rfl

/-! ### Steps -/

theorem step_nil {s : State} (h : s.moves = []) : step s = coreMove s := by
  simp [step, h]

theorem step_cons {s : State} {m : Move} {rest : List Move} (h : s.moves = m :: rest) :
    step s = runMove m { s with moves := rest } := by
  simp [step, h]

theorem coreMove_idle {s : State} (h : s.busy = false) : coreMove s = .next s := by
  simp [coreMove, h]

theorem coreMove_busy {s : State} (h : s.busy = true) {i : Instr} (hi : decode s.lcmd = .ok i) :
    coreMove s = exec i s := by
  simp [coreMove, h, hi]

/-- A bus write is refused, or it is a CMD write at BUSY = 0, which dispatches, or it stores and nothing more. -/
theorem busWrite_cases (off : Offset) (n : Size) (data : Word) (s : State) :
    (writeFails off n s = true ∧ busWrite off n data s = .next (addReply replyError s)) ∨
      (writeFails off n s = false ∧ regionOf off = .cmd ∧ s.busy = false ∧
        busWrite off n data s = runWord data (addReply replyOkay { s with cmd := data })) ∨
      (writeFails off n s = false ∧ regionOf off ≠ .cmd ∧
        busWrite off n data s = .next (addReply replyOkay (storeRegister off n data s))) := by
  cases hf : writeFails off n s with
  | true => exact .inl ⟨rfl, by simp [busWrite, hf]⟩
  | false =>
    by_cases hr : regionOf off = .cmd
    · refine .inr (.inl ⟨rfl, hr, ?_, by simp [busWrite, hf, hr, storeRegister]⟩)
      simp only [writeFails, Bool.or_eq_false_iff] at hf
      simpa [hr, Region.isLocked] using hf.2
    · exact .inr (.inr ⟨rfl, hr, by simp [busWrite, hf, hr]⟩)

/-- The dispatch of a word: an error is raised on the cleared outcome, or a legal command is accepted. -/
theorem runWord_cases {s : State} (h : s.busy = false) (w : Word) :
    (∃ code, code ≠ .noError ∧ runWord w s = .next (raiseCmdError code (clearOutcome s))) ∨
      (∃ i, decode w = .ok i ∧ commandError i s.sv = none ∧ runWord w s = .next (accept i (clearOutcome s))) := by
  unfold runWord
  cases hd : decode w with
  | error e => exact .inl ⟨.illegalCommand, by simp, rfl⟩
  | ok i =>
    simp only [exec_idle h]
    rcases dispatchCommand_cases i s with ⟨code, hc, he⟩ | ⟨hc, he⟩
    · refine .inl ⟨code, ?_, by rw [he]⟩
      rintro rfl
      exact commandError_ne_noError _ _ hc
    · exact .inr ⟨i, rfl, hc, by rw [he]⟩

/-- A write that is not to CMD stores in one register: CONFIG, STATUS, GF, KEY or DIN, or nowhere. -/
theorem storeRegister_cases (off : Offset) (n : Size) (data : Word) (s : State) (h : regionOf off ≠ .cmd) :
    (regionOf off = .config ∧ storeRegister off n data s = { s with ie := data.getLsbD 0, te := data.getLsbD 1 }) ∨
      (regionOf off = .status ∧ storeRegister off n data s = writeStatus data s) ∨
      (regionOf off = .gf ∧
        storeRegister off n data s = { s with gfA := data.extractLsb' 0 8, gfB := data.extractLsb' 8 8 }) ∨
      (regionOf off = .key ∧ storeRegister off n data s = { s with key := writeBytes s.key (indexIn off) n data }) ∨
      (regionOf off = .din ∧ storeRegister off n data s = { s with din := writeBytes s.din (indexIn off) n data }) ∨
      storeRegister off n data s = s := by
  unfold storeRegister
  cases hr : regionOf off <;> simp_all

/-- The STATUS write clears DONE by bit 1, ERR and ERRCODE by bit 2, and leaves the rest. -/
theorem writeStatus_eq (data : Word) (s : State) :
    writeStatus data s =
      { s with
        done := if data.getLsbD 1 then false else s.done
        err := if data.getLsbD 2 then false else s.err
        errcode := if data.getLsbD 2 then .noError else s.errcode } := by
  cases s
  unfold writeStatus clearErr clearDone
  split <;> split <;> rfl

/-- A read changes nothing of the core: it adds a reply and may draw free bytes. -/
theorem busRead_eq (off : Offset) (n : Size) (s : State) :
    ∃ (r : BusReply) (d : Nat), busRead off n s = { s with replies := s.replies ++ [r], draws := d } := by
  unfold busRead
  split
  · exact ⟨_, s.draws, rfl⟩
  · exact ⟨_, _, rfl⟩

end Sys2Proof.Machine
end

