-- ==== Sys2Proof/Laws/Bus.lean ====
section
/-!
SUPPORT. The address map by offset, the lanes of a data word, and the conditions on an access, each said once.
-/

namespace Sys2Proof.Machine

theorem regionOf_eq_key {off : Offset} : regionOf off = .key ↔ 0x020 ≤ off.toNat ∧ off.toNat < 0x030 := by
  unfold regionOf controlRegion
  split_ifs <;> simp <;> omega

theorem regionOf_eq_din {off : Offset} : regionOf off = .din ↔ 0x030 ≤ off.toNat ∧ off.toNat < 0x040 := by
  unfold regionOf controlRegion
  split_ifs <;> simp <;> omega

theorem regionOf_eq_dout {off : Offset} : regionOf off = .dout ↔ 0x040 ≤ off.toNat ∧ off.toNat < 0x050 := by
  unfold regionOf controlRegion
  split_ifs <;> simp <;> omega

theorem regionOf_eq_stateWindow {off : Offset} :
    regionOf off = .stateWindow ↔ 0x050 ≤ off.toNat ∧ off.toNat < 0x060 := by
  unfold regionOf controlRegion
  split_ifs <;> simp <;> omega

theorem regionOf_eq_rkWindow {off : Offset} {i : Fin 11} :
    regionOf off = .rkWindow i ↔ 0x100 + 16 * i.val ≤ off.toNat ∧ off.toNat < 0x110 + 16 * i.val := by
  have := i.isLt
  unfold regionOf controlRegion
  split_ifs <;> simp [Fin.ext_iff] <;> omega

theorem regionOf_eq_reserved {off : Offset} :
    regionOf off = .reserved ↔
      (0x010 ≤ off.toNat ∧ off.toNat < 0x020) ∨ (0x060 ≤ off.toNat ∧ off.toNat < 0x100) ∨ 0x1B0 ≤ off.toNat := by
  unfold regionOf controlRegion
  split_ifs <;> simp <;> omega

theorem isControl_iff {off : Offset} : (regionOf off).isControl = true ↔ off.toNat < 0x010 := by
  unfold regionOf controlRegion
  split_ifs <;> simp [Region.isControl] <;> omega

theorem isReadOnly_iff {off : Offset} :
    (regionOf off).isReadOnly = true ↔
      (0x040 ≤ off.toNat ∧ off.toNat < 0x060) ∨ (0x100 ≤ off.toNat ∧ off.toNat < 0x1B0) := by
  unfold regionOf controlRegion
  split_ifs <;> simp [Region.isReadOnly] <;> omega

theorem isLocked_iff {off : Offset} :
    (regionOf off).isLocked = true ↔
      off.toNat < 0x004 ∨ (0x00C ≤ off.toNat ∧ off.toNat < 0x010) ∨ (0x020 ≤ off.toNat ∧ off.toNat < 0x040) := by
  unfold regionOf controlRegion
  split_ifs <;> simp [Region.isLocked] <;> omega

/-- Lane `k` of a packed word is the byte packed there. -/
theorem laneByte_packLanes (f : Nat → Byte) (n : Size) (k : Nat) (h : k < n.bytes) :
    laneByte (packLanes f n) k = f k := by
  unfold laneByte
  cases n <;> simp only [Size.bytes] at h <;> simp only [packLanes]
  all_goals
    apply BitVec.eq_of_getLsbD_eq
    intro i hi
    interval_cases k <;> simp only [BitVec.getLsbD_extractLsb', BitVec.getLsbD_append] <;> interval_cases i <;> simp

/-- The offset of lane `k`, below the end of the window. -/
theorem toNat_offset_add {off : Offset} {k : Nat} (h : off.toNat + k < 4096) :
    (off + BitVec.ofNat 12 k).toNat = off.toNat + k := by
  rw [BitVec.toNat_add, BitVec.toNat_ofNat]
  omega

end Sys2Proof.Machine
end

