-- ==== Sys2Proof/Laws/Decode.lean ====
section
/-!
SUPPORT. A word with its reserved bits zero and its five fields are the same thing (30_encoding.md R81).
-/

namespace Sys2Proof

theorem fieldsOf_assemble (f : Fields) : fieldsOf (assemble f) = f := by
  obtain ⟨op, dir, rnd, blen, klen⟩ := f
  simp only [fieldsOf, assemble, Fields.mk.injEq]
  refine ⟨?_, ?_, ?_, ?_, ?_⟩ <;>
  · apply BitVec.eq_of_getLsbD_eq
    intro i hi
    simp only [BitVec.getLsbD_append, BitVec.getLsbD_extractLsb']
    interval_cases i <;> simp

theorem assemble_reserved (f : Fields) : assemble f &&& reservedMask = 0#32 := by
  obtain ⟨op, dir, rnd, blen, klen⟩ := f
  simp only [assemble, reservedMask]
  apply BitVec.eq_of_getLsbD_eq
  intro i hi
  simp only [BitVec.getLsbD_and, BitVec.getLsbD_append]
  interval_cases i <;> simp

theorem assemble_fieldsOf (w : Word) (h : w &&& reservedMask = 0#32) : assemble (fieldsOf w) = w := by
  apply BitVec.eq_of_getLsbD_eq
  intro i hi
  have hb := congrArg (fun x => BitVec.getLsbD x i) h
  simp only [BitVec.getLsbD_and, reservedMask] at hb
  simp only [assemble, fieldsOf, BitVec.getLsbD_append, BitVec.getLsbD_extractLsb']
  interval_cases i <;> simp_all

theorem assemble_inj {f g : Fields} : assemble f = assemble g ↔ f = g :=
  ⟨fun h => by rw [← fieldsOf_assemble f, h, fieldsOf_assemble], fun h => by rw [h]⟩

theorem decode_assemble (f : Fields) : decode (assemble f) = decodeFields f := by
  rw [decode, if_pos (assemble_reserved f), fieldsOf_assemble]

theorem decode_ok_iff {w : Word} {i : Instr} :
    decode w = .ok i ↔ w &&& reservedMask = 0#32 ∧ decodeFields (fieldsOf w) = .ok i := by
  unfold decode
  split <;> simp_all

/-- A command that the fields decode to is well formed, and its fields are those. -/
theorem decodeFields_ok {f : Fields} {i : Instr} (h : decodeFields f = .ok i) : i.wellFormed = true ∧ i.fields = f := by
  obtain ⟨op, dir, rnd, blen, klen⟩ := f
  have hop : op = BitVec.ofNat 4 op.toNat := by simp
  have hd : ∀ d : BitVec 1, d = 0 ∨ d = 1 := by decide
  replace hd := hd dir
  simp only [decodeFields, whenUnusedZero] at h
  split at h
  case h_13 => cases h
  all_goals
    rename_i hv
    rw [hv] at hop
    subst hop
  all_goals split_ifs at h
  all_goals cases h
  all_goals simp_all [Instr.wellFormed, Instr.fields]
  all_goals rcases hd with rfl | rfl <;> rfl

/-- A command in a legal word is well formed. -/
theorem wellFormed_of_decode {w : Word} {i : Instr} (h : decode w = .ok i) : i.wellFormed = true :=
  (decodeFields_ok (decode_ok_iff.mp h).2).1

/-- The OP field of a command's word is its OP value (30_encoding.md R85). -/
theorem encode_op (i : Instr) : (encode i).extractLsb' 0 4 = i.fields.op := by
  have h := fieldsOf_assemble i.fields
  exact congrArg Fields.op h

end Sys2Proof
end

