-- ==== Sys2Proof/Laws/Galois.lean ====
section
/-!
SUPPORT. The multiplier's loop is additive in each factor, and two additive maps of bytes are equal if they agree on the
eight one-bit bytes.
-/

namespace Sys2Proof.Machine

/-- The doubling of the loop: a shift, and 0x1B if the high bit went out (40_gf_and_tables.md R110). -/
def xtime (a : Byte) : Byte := if a.getLsbD 7 then (a <<< 1) ^^^ 0x1B#8 else a <<< 1

theorem xtime_xor (a b : Byte) : xtime (a ^^^ b) = xtime a ^^^ xtime b := by
  unfold xtime
  rw [BitVec.getLsbD_xor, BitVec.shiftLeft_xor_distrib]
  cases a.getLsbD 7 <;> cases b.getLsbD 7 <;> simp only [Bool.xor_true, Bool.xor_false, Bool.not_true, Bool.not_false,
    Bool.false_eq_true, ↓reduceIte]
  · ac_rfl
  · ac_rfl
  · calc a <<< 1 ^^^ b <<< 1 = a <<< 1 ^^^ b <<< 1 ^^^ (0x1B#8 ^^^ 0x1B#8) := by simp
      _ = _ := by ac_rfl

theorem gmulLoop_succ (n : Nat) (a b p : Byte) :
    gmulLoop (n + 1) a b p = gmulLoop n (xtime a) (b >>> 1) (if b.getLsbD 0 then p ^^^ a else p) := rfl

/-- The product so far is a summand of the result. -/
theorem gmulLoop_acc (n : Nat) (a b p : Byte) : gmulLoop n a b p = p ^^^ gmulLoop n a b 0#8 := by
  induction n generalizing a b p with
  | zero => simp [gmulLoop]
  | succ n ih =>
    rw [gmulLoop_succ, gmulLoop_succ, ih, ih _ _ (if b.getLsbD 0 then 0#8 ^^^ a else 0#8)]
    cases b.getLsbD 0 <;> simp [BitVec.xor_assoc]

/-- The loop is additive in its first factor. -/
theorem gmulLoop_xor_left (n : Nat) (a c b : Byte) :
    gmulLoop n (a ^^^ c) b 0#8 = gmulLoop n a b 0#8 ^^^ gmulLoop n c b 0#8 := by
  induction n generalizing a c b with
  | zero => simp [gmulLoop]
  | succ n ih =>
    simp only [gmulLoop_succ, xtime_xor]
    rw [gmulLoop_acc, gmulLoop_acc n (xtime a), gmulLoop_acc n (xtime c), ih]
    cases b.getLsbD 0
    · simp
    · simp only [if_true, BitVec.zero_xor]
      ac_rfl

/-- The loop is additive in its second factor. -/
theorem gmulLoop_xor_right (n : Nat) (a b d : Byte) :
    gmulLoop n a (b ^^^ d) 0#8 = gmulLoop n a b 0#8 ^^^ gmulLoop n a d 0#8 := by
  induction n generalizing a b d with
  | zero => simp [gmulLoop]
  | succ n ih =>
    simp only [gmulLoop_succ, BitVec.ushiftRight_xor_distrib, BitVec.getLsbD_xor]
    rw [gmulLoop_acc, gmulLoop_acc n _ (b >>> 1), gmulLoop_acc n _ (d >>> 1), ih]
    cases b.getLsbD 0 <;> cases d.getLsbD 0 <;> simp only [Bool.xor_true, Bool.xor_false, Bool.not_true, Bool.not_false,
      Bool.false_eq_true, ↓reduceIte, BitVec.zero_xor]
    · ac_rfl
    · ac_rfl
    · generalize gmulLoop n (xtime a) (b >>> 1) 0#8 = x
      generalize gmulLoop n (xtime a) (d >>> 1) 0#8 = y
      calc x ^^^ y = x ^^^ y ^^^ (a ^^^ a) := by simp
        _ = _ := by ac_rfl
/-- `f` turns an exclusive-or into an exclusive-or. -/
def XorAdditive {n : Nat} (f : Byte → BitVec n) : Prop := ∀ a b, f (a ^^^ b) = f a ^^^ f b

theorem XorAdditive.zero {n : Nat} {f : Byte → BitVec n} (hf : XorAdditive f) : f 0#8 = 0#n := by
  have h := hf 0#8 0#8
  rw [BitVec.xor_self, BitVec.xor_self] at h
  exact h

/-- A byte is the exclusive-or of its one-bit bytes. -/
theorem byte_eq_bits (b : Byte) :
    b = (List.finRange 8).foldl (fun p i => p ^^^ if b.getLsbD i.val then 1#8 <<< i.val else 0#8) 0#8 := by
  revert b
  decide +kernel

theorem XorAdditive.foldl {n : Nat} {f : Byte → BitVec n} (hf : XorAdditive f) (b : Byte) (l : List (Fin 8)) (p : Byte) :
    f (l.foldl (fun p i => p ^^^ if b.getLsbD i.val then 1#8 <<< i.val else 0#8) p) =
      l.foldl (fun p i => p ^^^ if b.getLsbD i.val then f (1#8 <<< i.val) else 0#n) (f p) := by
  induction l generalizing p with
  | nil => rfl
  | cons i l ih =>
    rw [List.foldl_cons, List.foldl_cons, ih, hf]
    cases b.getLsbD i.val <;> simp [hf.zero]

/-- Two additive maps of bytes that agree on the eight one-bit bytes agree on every byte. -/
theorem XorAdditive.ext {n : Nat} {f g : Byte → BitVec n} (hf : XorAdditive f) (hg : XorAdditive g)
    (h : ∀ i : Fin 8, f (1#8 <<< i.val) = g (1#8 <<< i.val)) (b : Byte) : f b = g b := by
  rw [byte_eq_bits b, hf.foldl, hg.foldl, hf.zero, hg.zero]
  simp only [h]
end Sys2Proof.Machine
end

