-- ==== Sys2Proof/Laws/Step.lean ====
section
/-!
SUPPORT. Everything that one move of one agent can do, said once: if the move gives a next state, it is one of the cases
of `MoveDoes`. Statements about every step follow by cases, without unfolding the step.
-/

namespace Sys2Proof.Machine

/-- `MoveDoes m s t`: the move `m` takes `s` to `t` in one of the ways the machine has. -/
inductive MoveDoes (m : Move) (s : State) : State → Prop
  /-- A read, which may draw free bytes. -/
  | read (off : Offset) (n : Size) (r : BusReply) (d : Nat) : m = .busRead off n →
      MoveDoes m s { s with replies := s.replies ++ [r], draws := d }
  /-- A write that stores nothing. -/
  | noWrite (off : Offset) (n : Size) (x : Word) (r : BusReply) : m = .busWrite off n x → MoveDoes m s (addReply r s)
  /-- A CMD write whose command fails. -/
  | cmdError (w : Word) (code : ErrCode) : m = .busWrite 0x000#12 .b4 w → s.busy = false → code ≠ .noError →
      MoveDoes m s (raiseCmdError code (clearOutcome (addReply replyOkay { s with cmd := w })))
  /-- A CMD write whose command is accepted. -/
  | accepted (w : Word) (i : Instr) : m = .busWrite 0x000#12 .b4 w → s.busy = false → decode w = .ok i →
      commandError i s.sv = none → MoveDoes m s (accept i (clearOutcome (addReply replyOkay { s with cmd := w })))
  /-- A CONFIG write. -/
  | config (off : Offset) (n : Size) (x : Word) : m = .busWrite off n x →
      MoveDoes m s (addReply replyOkay { s with ie := x.getLsbD 0, te := x.getLsbD 1 })
  /-- A STATUS write. -/
  | status (off : Offset) (n : Size) (x : Word) : m = .busWrite off n x →
      MoveDoes m s (addReply replyOkay
        { s with
          done := if x.getLsbD 1 then false else s.done
          err := if x.getLsbD 2 then false else s.err
          errcode := if x.getLsbD 2 then .noError else s.errcode })
  /-- A GF write. -/
  | gf (off : Offset) (n : Size) (x : Word) : m = .busWrite off n x → s.busy = false →
      MoveDoes m s (addReply replyOkay { s with gfA := x.extractLsb' 0 8, gfB := x.extractLsb' 8 8 })
  /-- A KEY write. -/
  | key (off : Offset) (n : Size) (x : Word) : m = .busWrite off n x → s.busy = false → regionOf off = .key →
      MoveDoes m s (addReply replyOkay { s with key := writeBytes s.key (indexIn off) n x })
  /-- A DIN write. -/
  | din (off : Offset) (n : Size) (x : Word) : m = .busWrite off n x → s.busy = false → regionOf off = .din →
      MoveDoes m s (addReply replyOkay { s with din := writeBytes s.din (indexIn off) n x })
  /-- The core is idle. -/
  | idle : m = .core → s.busy = false → MoveDoes m s s
  /-- A traced command waits for the sink. -/
  | wait (i : Instr) (c : Cipher) (e : TraceEvent) : m = .core → s.busy = true → decode s.lcmd = .ok i →
      cipherOf i = some c → s.lte = true → s.tq = some e → MoveDoes m s s
  /-- A traced command emits its next event. -/
  | emit (i : Instr) (c : Cipher) (p : PipeStep) : m = .core → s.busy = true → decode s.lcmd = .ok i →
      cipherOf i = some c → s.lte = true → s.tq = none → (stepTable c)[s.seq]? = some p →
      MoveDoes m s (emitEvent c p s)
  /-- A command completes. -/
  | completes (i : Instr) : m = .core → s.busy = true → decode s.lcmd = .ok i →
      (∀ c, cipherOf i = some c → s.lte = true → s.tq = none ∧ (stepTable c)[s.seq]? = none) →
      MoveDoes m s (completed i s)
  /-- The sink has nothing to accept. -/
  | sinkNone : m = .sink → s.tq = none → MoveDoes m s s
  /-- The sink accepts. -/
  | sinkSome (e : TraceEvent) : m = .sink → s.tq = some e →
      MoveDoes m s { s with tq := none, delivered := s.delivered ++ [e] }
  /-- The reset event. -/
  | reset : m = .reset → MoveDoes m s (resetEvent s)

/-- A CMD write that is not refused is the word write at offset 0. -/
theorem cmd_access {off : Offset} {n : Size} (h : regionOf off = .cmd) (hf : accessFails off n = false) :
    off = 0x000#12 ∧ n = .b4 := by
  have hlt : off.toNat < 4 := by
    revert h
    unfold regionOf controlRegion
    split_ifs <;> simp
    omega
  simp only [accessFails, h, Region.isControl, Bool.true_and, Bool.or_eq_false_iff, bne_eq_false_iff_eq] at hf
  obtain ⟨⟨ha, -⟩, rfl⟩ := hf
  refine ⟨BitVec.eq_of_toNat_eq ?_, rfl⟩
  simp only [Size.bytes] at ha
  simp
  omega

theorem runMove_does {m : Move} {s t : State} (h : runMove m s = .next t) : MoveDoes m s t := by
  cases m with
  | busRead off n =>
    obtain ⟨r, d, hb⟩ := busRead_eq off n s
    simp only [runMove, hb] at h
    cases h
    exact .read off n r d rfl
  | busWrite off n x =>
    simp only [runMove] at h
    rcases busWrite_cases off n x s with ⟨-, he⟩ | ⟨hf, hr, hb, he⟩ | ⟨hf, hr, he⟩ <;> rw [he] at h
    · cases h
      exact .noWrite off n x _ rfl
    · have ha : accessFails off n = false := by
        simp only [writeFails, Bool.or_eq_false_iff] at hf
        exact hf.1.1
      obtain ⟨rfl, rfl⟩ := cmd_access hr ha
      rcases runWord_cases (s := addReply replyOkay { s with cmd := x }) hb x with ⟨c, hc, hw⟩ | ⟨i, hi, hc, hw⟩
      all_goals
        rw [hw] at h
        cases h
      · exact .cmdError x c rfl hb hc
      · exact .accepted x i rfl hb hi hc
    · have hl : (regionOf off).isLocked = true → s.busy = false := by
        intro hl
        simp only [writeFails, hl, Bool.and_true, Bool.or_eq_false_iff] at hf
        exact hf.2
      cases h
      rcases storeRegister_cases off n x s hr with ⟨h1, h⟩ | ⟨h1, h⟩ | ⟨h1, h⟩ | ⟨h1, h⟩ | ⟨h1, h⟩ | h <;> rw [h]
      · exact .config off n x rfl
      · rw [writeStatus_eq]
        exact .status off n x rfl
      · exact .gf off n x rfl (hl (by rw [h1]; rfl))
      · exact .key off n x rfl (hl (by rw [h1]; rfl)) h1
      · exact .din off n x rfl (hl (by rw [h1]; rfl)) h1
      · exact .noWrite off n x _ rfl
  | core =>
    simp only [runMove] at h
    cases hb : s.busy with
    | false =>
      rw [coreMove_idle hb] at h
      cases h
      exact .idle rfl hb
    | true =>
      cases hd : decode s.lcmd with
      | error e => simp [coreMove, hb, hd] at h
      | ok i =>
        rw [coreMove_busy hb hd] at h
        rcases exec_busy_cases hb (wellFormed_of_decode hd) with ⟨⟨c, hc⟩, hl, ⟨e, he⟩, hx⟩ |
          ⟨c, p, hc, hl, ht, hp, hx⟩ | ⟨hc, hx⟩ <;> rw [hx] at h <;> cases h
        · exact .wait i c e rfl hb hd hc hl he
        · exact .emit i c p rfl hb hd hc hl ht hp
        · exact .completes i rfl hb hd hc
  | sink =>
    simp only [runMove, sinkAccept] at h
    cases ht : s.tq with
    | none =>
      rw [ht] at h
      cases h
      exact .sinkNone rfl ht
    | some e =>
      rw [ht] at h
      cases h
      exact .sinkSome e rfl ht
  | reset =>
    cases h
    exact .reset rfl

/-- A step is the next move of the list, or a core move with none listed, on the state without that move. -/
theorem step_does {s t : State} (h : step s = .next t) :
    ∃ m, (s.moves.head? = some m ∨ (s.moves = [] ∧ m = .core)) ∧ MoveDoes m { s with moves := s.moves.tail } t := by
  cases hm : s.moves with
  | nil =>
    rw [step_nil hm] at h
    refine ⟨.core, by simp, ?_⟩
    rw [List.tail_nil, ← hm]
    exact runMove_does (m := .core) h
  | cons m rest =>
    rw [step_cons hm] at h
    exact ⟨m, by simp, runMove_does h⟩

/-- Every move except the core's gives a next state; so does an idle core's. -/
theorem runMove_next_of_ne_core {m : Move} (h : m ≠ .core) (s : State) : ∃ t, runMove m s = .next t := by
  cases m with
  | core => exact absurd rfl h
  | busRead off n => exact ⟨_, rfl⟩
  | sink => exact ⟨_, rfl⟩
  | reset => exact ⟨_, rfl⟩
  | busWrite off n x =>
    rcases busWrite_cases off n x s with ⟨-, he⟩ | ⟨-, -, hb, he⟩ | ⟨-, -, he⟩
    · exact ⟨_, he⟩
    · rcases runWord_cases (s := addReply replyOkay { s with cmd := x }) hb x with ⟨c, -, hw⟩ | ⟨i, -, -, hw⟩ <;>
        exact ⟨_, he.trans hw⟩
    · exact ⟨_, he⟩

end Sys2Proof.Machine
end

