-- ==== Sys2Proof/Laws/Invariant.lean ====
section
/-!
SUPPORT. What the invariant of a command in flight depends on, and the events of a step of the table.
-/

namespace Sys2Proof.Machine

theorem scheduleOf_congr {i : Instr} {s t : State} (hk : t.key = s.key) (hr : t.rk = s.rk) :
    scheduleOf i t = scheduleOf i s := by
  simp [scheduleOf, hk, hr]

/-- A row of the step table has a position below 40. -/
theorem lt_of_stepTable_get {c : Cipher} {k : Nat} {p : PipeStep} (h : (stepTable c)[k]? = some p) : k < 40 := by
  obtain ⟨hk, -⟩ := List.getElem?_eq_some_iff.mp h
  rwa [stepTable_length] at hk

/-- The invariant of a command in flight depends on KEY, RK, SV, DIN, seq, TQ, scratch and LTE alone. -/
theorem inFlightInv_congr {i : Instr} {s t : State} (h : InFlightInv i s) (hk : t.key = s.key) (hr : t.rk = s.rk)
    (hv : t.sv = s.sv) (hd : t.din = s.din) (hq : t.seq = s.seq) (ht : t.tq = s.tq) (hx : t.scratch = s.scratch)
    (hl : t.lte = s.lte) : InFlightInv i t := by
  unfold InFlightInv TracedInv UntracedInv emitted at *
  simpa [scheduleOf_congr hk hr, hv, hd, hq, ht, hx, hl] using h

/-- Two states that agree on those fields, and on the word in flight and on BUSY, and whose outcome is in order, are
both in the invariant or neither. -/
theorem Invariant.congr {s t : State} (hi : Invariant s) (hb : t.busy = s.busy) (hc : t.cmd = s.cmd)
    (hlc : t.lcmd = s.lcmd) (hk : t.busy = true → t.key = s.key) (hr : t.rk = s.rk) (hv : t.sv = s.sv)
    (hd : t.busy = true → t.din = s.din) (hq : t.seq = s.seq) (ht : t.tq = s.tq) (hx : t.scratch = s.scratch)
    (hl : t.lte = s.lte) (ho : ¬(t.done = true ∧ t.err = true)) (he : t.errcode = .noError ↔ t.err = false)
    (hbo : t.busy = true → t.done = false ∧ t.err = false) : Invariant t where
  outcome_exclusive := ho
  code_iff := he
  seq_le := hq ▸ hi.seq_le
  schedule_valid := by
    rw [hr, hv]
    exact hi.schedule_valid
  idle_tq := by
    rw [hb, ht]
    exact hi.idle_tq
  busy_outcome h := ⟨(hbo h).1, (hbo h).2, by rw [hc, hlc, (hi.busy_outcome (hb ▸ h)).2.2]⟩
  busy_inFlight h := by
    obtain ⟨i, hw, hf⟩ := hi.busy_inFlight (hb ▸ h)
    exact ⟨i, by rw [hlc, hw], inFlightInv_congr hf (hk h) hr hv (hd h) hq ht hx hl⟩

/-- The moves still to come, the replies, the delivered events and the draws are no part of the invariant. -/
theorem Invariant.setMoves {s : State} (hi : Invariant s) (l : List Move) : Invariant { s with moves := l } :=
  hi.congr rfl rfl rfl (fun _ => rfl) rfl rfl (fun _ => rfl) rfl rfl rfl rfl hi.outcome_exclusive hi.code_iff
    fun h => ⟨(hi.busy_outcome h).1, (hi.busy_outcome h).2.1⟩

end Sys2Proof.Machine
end

