-- ==== Sys2Proof/Laws/PerInstr.lean ====
section
/-!
SUPPORT. For each command: its word matches its own row of the encoding table of 30_encoding.md R86, and no other.
-/

namespace Sys2Proof

/-- What each mask of R86 keeps of a word: the fields it covers. -/
theorem assemble_and_mask (f : Fields) :
    assemble f &&& 0xE0E0FFFF#32 = assemble ⟨f.op, f.dir, f.rnd, 0, 0⟩ ∧
    assemble f &&& 0xE0FFFFFF#32 = assemble ⟨f.op, f.dir, f.rnd, f.blen, 0⟩ ∧
    assemble f &&& 0xFFE0FFFF#32 = assemble ⟨f.op, f.dir, f.rnd, 0, f.klen⟩ ∧
    assemble f &&& 0xFFFFFFFF#32 = assemble f ∧
    assemble f &&& 0xFFFFFFEF#32 = assemble ⟨f.op, 0, f.rnd, f.blen, f.klen⟩ ∧
    assemble f &&& 0xFFFFF0FF#32 = assemble ⟨f.op, f.dir, 0, f.blen, f.klen⟩ := by
  refine ⟨?_, ?_, ?_, ?_, ?_, ?_⟩
  all_goals
    simp only [assemble]
    apply BitVec.eq_of_getLsbD_eq
    intro i hi
    simp only [BitVec.getLsbD_and, BitVec.getLsbD_append]
    interval_cases i <;> simp

/-- The rows of R86 with each match value as the fields it fixes. -/
theorem opRows_eq :
    opRows =
      [(assemble ⟨0x1, 0, 0, 0, 0⟩, 0xE0E0FFFF#32), (assemble ⟨0x2, 0, 0, 0, 0⟩, 0xE0E0FFFF#32),
       (assemble ⟨0x3, 0, 0, 0, 0⟩, 0xE0FFFFFF#32), (assemble ⟨0x4, 0, 0, 0, 0⟩, 0xFFE0FFFF#32),
       (assemble ⟨0x5, 0, 0, 0, 0⟩, 0xFFE0FFFF#32), (assemble ⟨0x6, 0, 0, 0, 0⟩, 0xFFFFFFFF#32),
       (assemble ⟨0x7, 0, 0, 0, 0⟩, 0xFFE0FFFF#32), (assemble ⟨0x8, 0, 0, 0, 0⟩, 0xFFFFFFFF#32),
       (assemble ⟨0x9, 0, 0, 0, 0⟩, 0xFFFFFFEF#32), (assemble ⟨0xA, 0, 0, 0, 0⟩, 0xFFFFFFEF#32),
       (assemble ⟨0xB, 0, 0, 0, 0⟩, 0xFFFFFFEF#32), (assemble ⟨0xC, 0, 0, 0, 0⟩, 0xFFFFF0FF#32)] := by
  decide

namespace Laws.OneRow

/-- The word of the command matches one row of R86, the one at the place of its OP (30_encoding.md R86, R87). -/
def Statement (i : Instr) : Prop :=
  opRows.filter (fun row => encode i &&& row.2 = row.1) = opRows[i.fields.op.toNat - 1]?.toList

theorem encrypt (blen klen : BitVec 5) : Statement (.encrypt blen klen) := by
  rw [Statement, opRows_eq]
  simp [encode, Instr.fields, assemble_and_mask, assemble_inj, List.filter]

theorem decrypt (blen klen : BitVec 5) : Statement (.decrypt blen klen) := by
  rw [Statement, opRows_eq]
  simp [encode, Instr.fields, assemble_and_mask, assemble_inj, List.filter]

theorem expandKey (klen : BitVec 5) : Statement (.expandKey klen) := by
  rw [Statement, opRows_eq]
  simp [encode, Instr.fields, assemble_and_mask, assemble_inj, List.filter]

theorem encryptRk (blen : BitVec 5) : Statement (.encryptRk blen) := by
  rw [Statement, opRows_eq]
  simp [encode, Instr.fields, assemble_and_mask, assemble_inj, List.filter]

theorem decryptRk (blen : BitVec 5) : Statement (.decryptRk blen) := by
  rw [Statement, opRows_eq]
  simp [encode, Instr.fields, assemble_and_mask, assemble_inj, List.filter]

theorem gfMul : Statement .gfMul := by
  rw [Statement, opRows_eq]
  simp [encode, Instr.fields, assemble_and_mask, assemble_inj, List.filter]

theorem loadState (blen : BitVec 5) : Statement (.loadState blen) := by
  rw [Statement, opRows_eq]
  simp [encode, Instr.fields, assemble_and_mask, assemble_inj, List.filter]

theorem storeState : Statement .storeState := by
  rw [Statement, opRows_eq]
  simp [encode, Instr.fields, assemble_and_mask, assemble_inj, List.filter]

theorem subBytes (dir : Direction) : Statement (.subBytes dir) := by
  rw [Statement, opRows_eq]
  simp [encode, Instr.fields, assemble_and_mask, assemble_inj, List.filter]

theorem shiftRows (dir : Direction) : Statement (.shiftRows dir) := by
  rw [Statement, opRows_eq]
  simp [encode, Instr.fields, assemble_and_mask, assemble_inj, List.filter]

theorem mixColumns (dir : Direction) : Statement (.mixColumns dir) := by
  rw [Statement, opRows_eq]
  simp [encode, Instr.fields, assemble_and_mask, assemble_inj, List.filter]

theorem addRoundKey (rnd : BitVec 4) : Statement (.addRoundKey rnd) := by
  rw [Statement, opRows_eq]
  simp [encode, Instr.fields, assemble_and_mask, assemble_inj, List.filter]

end Laws.OneRow

end Sys2Proof
end

