-- ==== Sys2Proof/Laws/Run.lean ====
section
/-!
SUPPORT. Runs of several steps, in terms of `step`.
-/

namespace Sys2Proof.Machine

@[simp] theorem runSteps_zero (s : State) : runSteps 0 s = .next s := rfl

/-- A run of one more step, when the first gives a next state. -/
theorem runSteps_succ {s t : State} (h : step s = .next t) (n : Nat) : runSteps (n + 1) s = runSteps n t := by
  have hs : Sys2Proof.core.step s = .next t := h
  simp only [runSteps, Host.Core.run, hs]
  rfl

/-- A run in two parts, when the first gives a next state. -/
theorem runSteps_add {s t : State} {m : Nat} (h : runSteps m s = .next t) (n : Nat) :
    runSteps (m + n) s = runSteps n t := by
  induction m generalizing s with
  | zero =>
    cases h
    rw [Nat.zero_add]
  | succ m ih =>
    rw [Nat.add_right_comm]
    cases hs : step s with
    | next u =>
      rw [runSteps_succ hs] at h ⊢
      exact ih h
    | fault r =>
      have hs' : Sys2Proof.core.step s = .fault r := hs
      simp only [runSteps, Host.Core.run, hs'] at h
      cases h
    | refused r =>
      have hs' : Sys2Proof.core.step s = .refused r := hs
      simp only [runSteps, Host.Core.run, hs'] at h
      cases h

end Sys2Proof.Machine
end

