-- ==== Sys2Proof/Tests/Slice0.lean ====
section
/-!
SUPPORT. The model's own tests. Every expected value comes from spec/ (95_test_vectors.md and the rules named); after
them, for each statement with hypotheses, a state and operands that meet them all.
-/

namespace Sys2Proof.Tests

set_option Elab.async false

open Sys2Proof Sys2Proof.Machine

/-! ### Helpers -/

/-- The block written as 32 hex digits, byte 0 first (00_scope.md R9). -/
def hexBlock (x : Nat) : Block := Vector.ofFn fun i => BitVec.ofNat 8 (x / 256 ^ (15 - i.val))

/-- The key K1, the plaintext P1 and the ciphertext C1 of 95_test_vectors.md. -/
def keyK1 : Block := hexBlock 0x000102030405060708090a0b0c0d0e0f
def blockP1 : Block := hexBlock 0x00112233445566778899aabbccddeeff
def blockC1 : Block := hexBlock 0x69c4e0d86a7b0430d8cdb78070b4c55a

/-- `s` with the command word `w` in flight and not traced. -/
def inFlight (w : Word) (s : State) : State := { s with busy := true, cmd := w, lcmd := w }

/-- `s` with the one move `m` listed. -/
def withMove (m : Move) (s : State) : State := { s with moves := [m] }

/-- The step gives a next state of which `p` holds. -/
def stepTo (s : State) (p : State → Bool) : Bool :=
  match step s with
  | .next t => p t
  | .fault _ => false
  | .refused _ => false

/-- STATUS after the CMD write of `w` from the idle state right after reset, with SV as given. -/
def statusAfter (w : Word) (sv : Bool) : Option Word :=
  match step (withMove (.busWrite 0x000#12 .b4 w) { State.reset with sv := sv }) with
  | .next t => some t.statusWord
  | .fault _ => none
  | .refused _ => none

/-! ### Well-formedness (30_encoding.md R83, R87 case 4) -/

theorem test_wellFormed_refuses_rnd_11 : (Instr.addRoundKey 11#4).wellFormed = false := by decide
theorem test_wellFormed_refuses_rnd_15 : (Instr.addRoundKey 15#4).wellFormed = false := by decide
theorem test_wellFormed_rnd_10 : (Instr.addRoundKey 10#4).wellFormed = true := by decide

/-! ### Decoding: the fields of 30_encoding.md R81, written out bit by bit, `rrrKKKKKrrrBBBBBrrrrNNNNrrrDOOOO` -/

theorem test_decode_encrypt : decode 0b00010001000011110000000000000001#32 = .ok (.encrypt 15#5 17#5) := by decide
theorem test_decode_decrypt : decode 0b00000001000111110000000000000010#32 = .ok (.decrypt 31#5 1#5) := by decide
theorem test_decode_expandKey : decode 0b00010000000000000000000000000011#32 = .ok (.expandKey 16#5) := by decide
theorem test_decode_encryptRk : decode 0b00000000000100000000000000000100#32 = .ok (.encryptRk 16#5) := by decide
theorem test_decode_decryptRk : decode 0b00000000000100000000000000000101#32 = .ok (.decryptRk 16#5) := by decide
theorem test_decode_gfMul : decode 0b00000000000000000000000000000110#32 = .ok .gfMul := by decide
theorem test_decode_loadState : decode 0b00000000000100000000000000000111#32 = .ok (.loadState 16#5) := by decide
theorem test_decode_storeState : decode 0b00000000000000000000000000001000#32 = .ok .storeState := by decide
theorem test_decode_subBytes : decode 0b00000000000000000000000000011001#32 = .ok (.subBytes .inverse) := by decide
theorem test_decode_shiftRows : decode 0b00000000000000000000000000001010#32 = .ok (.shiftRows .forward) := by decide
theorem test_decode_mixColumns : decode 0b00000000000000000000000000011011#32 = .ok (.mixColumns .inverse) := by decide
theorem test_decode_addRoundKey : decode 0b00000000000000000000100100001100#32 = .ok (.addRoundKey 9#4) := by decide
theorem test_decodeTableWord : decodeTableWord 32 0x00000A0C = some (.addRoundKey 10#4) := by decide

/-! ### Command errors (95_test_vectors.md V5 and V100) -/

theorem test_status_illegal : statusAfter 0x0000000D#32 false = some 0x00000024#32 := by decide
theorem test_status_reserved : statusAfter 0x10101001#32 true = some 0x0000002C#32 := by decide
theorem test_status_illegal_before_length : statusAfter 0x100F0011#32 false = some 0x00000024#32 := by decide
theorem test_status_blen : statusAfter 0x10110001#32 true = some 0x0000001C#32 := by decide
theorem test_status_klen : statusAfter 0x0F000003#32 false = some 0x00000014#32 := by decide
theorem test_status_length_before_schedule : statusAfter 0x000F0004#32 false = some 0x00000014#32 := by decide
theorem test_status_noSchedule : statusAfter 0x0000050C#32 false = some 0x00000034#32 := by decide
theorem test_status_schedule : statusAfter 0x00100004#32 true = some 0x00000009#32 := by decide +kernel

/-! ### One core step of each command in flight (95_test_vectors.md, the vector named) -/

/-- V1. -/
theorem test_encrypt :
    stepTo (inFlight 0x10100001#32 { State.reset with key := keyK1, din := blockP1 })
      (fun t => t.dout == blockC1 && encodeState t.st == blockC1 && t.statusWord == 0x0000000A#32) = true := by
  decide +kernel

/-- V3. -/
theorem test_decrypt :
    stepTo (inFlight 0x10100002#32 { State.reset with key := keyK1, din := blockC1 })
      (fun t => t.dout == blockP1 && t.statusWord == 0x0000000A#32) = true := by
  decide +kernel

/-- V10, the last round key. -/
theorem test_expandKey :
    stepTo (inFlight 0x10000003#32 { State.reset with key := keyK1 })
      (fun t => encodeState t.rk[10] == hexBlock 0x13111d7fe3944a17f307a78b4d2b30c5 && t.sv) = true := by
  decide +kernel

/-- V11, the last round key of K2. -/
theorem test_expandKey_K2 :
    stepTo (inFlight 0x10000003#32 { State.reset with key := hexBlock 0x2b7e151628aed2a6abf7158809cf4f3c })
      (fun t => encodeState t.rk[10] == hexBlock 0xd014f9a8c9ee2589e13f0cc8b6630ca6) = true := by
  decide +kernel

/-- V17: the stored schedule is used, not KEY. -/
theorem test_encryptRk :
    stepTo (inFlight 0x00100004#32 { State.reset with rk := expand keyK1, sv := true, din := blockP1 })
      (fun t => t.dout == blockC1 && t.rk == expand keyK1 && t.sv) = true := by
  decide +kernel

/-- V17. -/
theorem test_decryptRk :
    stepTo (inFlight 0x00100005#32 { State.reset with rk := expand keyK1, sv := true, din := blockC1 })
      (fun t => t.dout == blockP1) = true := by
  decide +kernel

/-- V21. -/
theorem test_gfMul :
    stepTo (inFlight 0x00000006#32 { State.reset with gfA := 0x57#8, gfB := 0x83#8 })
      (fun t => t.gfWord == 0x00C18357#32 && t.statusWord == 0x00000002#32) = true := by
  decide

/-- V75: s[1][0] = 01, s[0][1] = 04, s[3][3] = 0f. -/
theorem test_loadState :
    stepTo (inFlight 0x00100007#32 { State.reset with din := keyK1 })
      (fun t => t.st.at 1 0 == 0x01#8 && t.st.at 0 1 == 0x04#8 && t.st.at 3 3 == 0x0F#8) = true := by
  decide

/-- V75. -/
theorem test_storeState :
    stepTo (inFlight 0x00000008#32 { State.reset with st := decodeBlock (hexBlock 0x00050a0f04090e03080d02070c01060b) })
      (fun t => t.dout == hexBlock 0x00050a0f04090e03080d02070c01060b) = true := by
  decide +kernel

/-- V31. -/
theorem test_subBytes_forward :
    stepTo (inFlight 0x00000009#32 { State.reset with st := decodeBlock keyK1 })
      (fun t => encodeState t.st == hexBlock 0x637c777bf26b6fc53001672bfed7ab76) = true := by
  decide +kernel

/-- V31. -/
theorem test_subBytes_inverse :
    stepTo (inFlight 0x00000019#32 { State.reset with st := decodeBlock keyK1 })
      (fun t => encodeState t.st == hexBlock 0x52096ad53036a538bf40a39e81f3d7fb) = true := by
  decide +kernel

/-- V40. -/
theorem test_shiftRows_forward :
    stepTo (inFlight 0x0000000A#32 { State.reset with st := decodeBlock keyK1 })
      (fun t => encodeState t.st == hexBlock 0x00050a0f04090e03080d02070c01060b) = true := by
  decide +kernel

/-- V40. -/
theorem test_shiftRows_inverse :
    stepTo (inFlight 0x0000001A#32 { State.reset with st := decodeBlock keyK1 })
      (fun t => encodeState t.st == hexBlock 0x000d0a0704010e0b0805020f0c090603) = true := by
  decide +kernel

/-- V68. -/
theorem test_mixColumns_forward :
    stepTo (inFlight 0x0000000B#32 { State.reset with st := decodeBlock (hexBlock 0x6353e08c0960e104cd70b751bacad0e7) })
      (fun t => encodeState t.st == hexBlock 0x5f72641557f5bc92f7be3b291db9f91a) = true := by
  decide +kernel

/-- V68. -/
theorem test_mixColumns_inverse :
    stepTo (inFlight 0x0000001B#32 { State.reset with st := decodeBlock keyK1 })
      (fun t => encodeState t.st == hexBlock 0x0a0f080d0e0b0c090207000506030401) = true := by
  decide +kernel

/-- V70, the largest legal RND. -/
theorem test_addRoundKey :
    stepTo (inFlight 0x00000A0C#32 { State.reset with rk := expand keyK1, sv := true, st := decodeBlock blockP1 })
      (fun t => encodeState t.st == hexBlock 0x13003f4ca7c12c607b9e0d3081f6de3a) = true := by
  decide +kernel

/-! ### The trace port -/

/-- V90, event 0. -/
theorem test_trace_first :
    stepTo { (accept (.encrypt 16#5 16#5) { State.reset with te := true, key := keyK1, din := blockP1 }) with moves := [] }
      (fun t => t.tq == some ⟨0x0030#16, blockP1⟩ && t.busy && t.dout == Block.zero) = true := by
  decide +kernel

/-- V91, event 77: after the inverse S-box of the last stage. -/
theorem test_trace_decrypt_event :
    (traceEvents .decrypt (expand keyK1) blockC1)[77]? =
      some ⟨0x00C0#16, hexBlock 0x00102030405060708090a0b0c0d0e0f0⟩ := by
  decide +kernel

/-- 44_cipher_pipeline.md R229. -/
theorem test_sink :
    stepTo (withMove .sink (inFlight 0x10100001#32 { State.reset with tq := some ⟨0x0030#16, blockP1⟩ }))
      (fun t => t.tq == none && t.delivered == [⟨0x0030#16, blockP1⟩]) = true := by
  decide +kernel

/-! ### The bus, reset, and the fetch of a word -/

/-- V80: RD16 0x042 of DOUT = 02070005... is 0x0500. -/
theorem test_read_dout :
    stepTo (withMove (.busRead 0x042#12 .b2) { State.reset with dout := hexBlock 0x02070005060304010a0f080d0e0b0c09 })
      (fun t => t.replies == [⟨.okay, 0x00000500#32⟩]) = true := by
  decide +kernel

/-- V15: RD32 0x1A0 after EXPAND_KEY of K1. -/
theorem test_read_rk :
    stepTo (withMove (.busRead 0x1A0#12 .b4) { State.reset with rk := expand keyK1, sv := true })
      (fun t => t.replies == [⟨.okay, 0x7F1D1113#32⟩]) = true := by
  decide +kernel

/-- V80: the second word of K1 goes to bytes 4 to 7. -/
theorem test_write_key :
    stepTo (withMove (.busWrite 0x024#12 .b4 0x07060504#32) State.reset)
      (fun t => t.key == hexBlock 0x00000000040506070000000000000000) = true := by
  decide +kernel

/-- V110: RD32 0x022 is misaligned. -/
theorem test_read_misaligned :
    stepTo (withMove (.busRead 0x022#12 .b4) State.reset) (fun t => t.replies == [⟨.slverr, 0#32⟩]) = true := by
  decide

/-- V110: a KEY write while BUSY = 1. -/
theorem test_write_key_busy :
    stepTo (withMove (.busWrite 0x020#12 .b4 0xFFFFFFFF#32) (inFlight 0x00000006#32 State.reset))
      (fun t => t.replies == [⟨.slverr, 0#32⟩] && t.key == Block.zero && t.busy) = true := by
  decide

/-- V110: RD32 0x010 is reserved. -/
theorem test_read_reserved :
    stepTo (withMove (.busRead 0x010#12 .b4) State.reset) (fun t => t.replies == [⟨.slverr, 0#32⟩]) = true := by
  decide

/-- V130: with IE = 1, the completion of EXPAND_KEY gives STATUS 0x0000010A and IRQ. -/
theorem test_irq :
    stepTo (inFlight 0x10000003#32 { State.reset with ie := true })
      (fun t => t.statusWord == 0x0000010A#32 && t.irq) = true := by
  decide +kernel

/-- V120: reset while BUSY = 1. -/
theorem test_reset_aborts :
    stepTo (withMove .reset (inFlight 0x10100001#32 { State.reset with key := keyK1, dout := blockC1, sv := true }))
      (fun t => t.statusWord == 0#32 && t.dout == Block.zero && t.key == Block.zero) = true := by
  decide +kernel

/-- The word placed by `withFetchWord` is the next command dispatched. -/
theorem test_withFetchWord :
    stepTo (State.reset.withFetchWord 32 0x00000006) (fun t => t.busy && t.lcmd == 0x00000006#32) = true := by
  decide

/-! ### Witnesses: a state and operands that meet the hypotheses of each statement -/

/-- An idle state with the CMD write of `w` next. -/
def writing (w : Word) : State := withMove (.busWrite 0x000#12 .b4 w) State.reset

/-- GF_MUL in flight. -/
def busyGf : State := inFlight 0x00000006#32 State.reset

/-- ENCRYPT in flight and traced, its first event waiting in TQ. -/
def waiting : State :=
  { (accept (.encrypt 16#5 16#5) { State.reset with te := true, cmd := 0x10100001#32 }) with
    tq := some ⟨traceLabel .encrypt ⟨0, .addRoundKey⟩ false, encodeState (decodeBlock Block.zero)⟩
    scratch := { st := decodeBlock Block.zero, rk := expand Block.zero, ph := true } }

/-- ENCRYPT in flight and traced, `k` steps done and the first event of the next one out if `ph`. -/
def tracing (k : Nat) (ph : Bool) : State :=
  { (inFlight 0x10100001#32 State.reset) with
    lte := true
    seq := k
    scratch := { st := stateAfter .encrypt (expand Block.zero) Block.zero k, rk := expand Block.zero, ph := ph } }

theorem witness_DecodeOfEncodeIsTheCommand :
    (Instr.addRoundKey 10#4).wellFormed = true ∧ (Instr.encrypt 31#5 0#5).wellFormed = true := by decide
theorem witness_EncodeOfDecodeIsTheWord : ∃ (w : Word) (i : Instr), decode w = .ok i := ⟨0x00000A0C#32, .addRoundKey 10#4, by decide⟩
theorem witness_IllegalWordsAreTheFourCases :
    decode 0x0000000F#32 = .error .unassignedOp ∧ decode 0x00001006#32 = .error .reservedBit ∧
    decode 0x80000006#32 = .error .reservedBit ∧ decode 0x0000001C#32 = .error .unusedField ∧
    decode 0x00000B0C#32 = .error .roundKeyIndex ∧ decode 0x00000A0C#32 = .ok (.addRoundKey 10#4) := by decide
theorem witness_StepRunsTheWrittenCommand :
    ∃ (s : State) (w : Word) (i : Instr) (rest : List Move), s.busy = false ∧ s.moves = .busWrite 0x000#12 .b4 w :: rest ∧ decode w = .ok i :=
  ⟨writing 0x00000006#32, _, .gfMul, _, rfl, rfl, by decide⟩
theorem witness_StepRunsTheCommandInFlight :
    busyGf.busy = true ∧ coreNext busyGf ∧ decode busyGf.lcmd = .ok .gfMul ∧
    (inFlight 0x00000B0C#32 State.reset).busy = true ∧ coreNext (inFlight 0x00000B0C#32 State.reset) ∧
    decode (inFlight 0x00000B0C#32 State.reset).lcmd = .error .roundKeyIndex ∧
    coreNext (withMove .core State.reset) ∧ (withMove .core State.reset).busy = false :=
  ⟨rfl, .inl rfl, by decide, rfl, .inl rfl, by decide, .inr rfl, rfl⟩
theorem witness_CommandWriteDispatch :
    ∃ (s t : State) (w : Word) (rest : List Move), s.busy = false ∧ t.busy = true ∧
      s.moves = Move.busWrite 0x000#12 .b4 w :: rest ∧ t.moves = Move.busWrite 0x000#12 .b4 w :: rest :=
  ⟨writing 0x10100001#32, withMove (.busWrite 0x000#12 .b4 0x10100001#32) busyGf, _, _, rfl, rfl, rfl, rfl⟩

/-- A word for each branch of the dispatch, at the bounds: RND 11 and 10, BLEN 15 and 17, KLEN 15, SV 0. -/
theorem witness_CommandWriteDispatch_branches :
    legal 0x00000B0C#32 = false ∧ legal 0x00000A0C#32 = true ∧
    commandError (.loadState 15#5) false = some .invalidLength ∧
    commandError (.loadState 17#5) true = some .invalidLength ∧
    commandError (.expandKey 15#5) false = some .invalidLength ∧
    commandError (.addRoundKey 10#4) false = some .noSchedule ∧
    commandError (.addRoundKey 10#4) true = none ∧ commandError (.encrypt 16#5 16#5) false = none := by decide
theorem witness_WrongLengthRaisesInvalidLength :
    (15#5).toNat ≠ 16 ∧ (17#5).toNat ≠ 16 ∧
    Instr.loadState 15#5 ∈ [.encrypt 15#5 0#5, .decrypt 15#5 0#5, .encryptRk 15#5, .decryptRk 15#5, .loadState 15#5] ∧
    Instr.expandKey 17#5 ∈ [Instr.encrypt 16#5 17#5, .decrypt 16#5 17#5, .expandKey 17#5] ∧
    State.reset.busy = false := by decide
theorem witness_NoScheduleRaisedWhileSvClear :
    State.reset.busy = false ∧ State.reset.sv = false ∧ (10#4).toNat ≤ 10 ∧
    Instr.addRoundKey 10#4 ∈ [Instr.encryptRk 16#5, .decryptRk 16#5, .addRoundKey 10#4] := by decide
theorem witness_FailedCommandOnlyRecordsTheError :
    ∃ (s : State) (i : Instr) (code : ErrCode), s.busy = false ∧ commandError i s.sv = some code :=
  ⟨State.reset, .encryptRk 16#5, .noSchedule, rfl, by decide⟩
theorem witness_AcceptedCommandMakesTheCoreBusy : ∃ (s : State) (i : Instr), s.busy = false ∧ commandError i s.sv = none :=
  ⟨State.reset, .gfMul, rfl, by decide⟩
theorem witness_GfMulCompletes : ∃ s : State, s.busy = true := ⟨busyGf, rfl⟩
theorem witness_LoadStateCompletes : (inFlight 0x00100007#32 State.reset).busy = true := rfl
theorem witness_StoreStateCompletes : (inFlight 0x00000008#32 State.reset).busy = true := rfl
theorem witness_SubBytesCompletes : (inFlight 0x00000009#32 State.reset).busy = true := rfl
theorem witness_ShiftRowsCompletes :
    (inFlight 0x0000000A#32 State.reset).busy = true ∧
    ∃ r c d e : Fin 4, r = 3 ∧ c = 3 ∧ d.val = (c.val + r.val) % 4 ∧ e.val = (c.val + 4 - r.val) % 4 :=
  ⟨rfl, 3, 3, 2, 0, rfl, rfl, rfl, rfl⟩
theorem witness_MixColumnsCompletes : (inFlight 0x0000000B#32 State.reset).busy = true := rfl
theorem witness_AddRoundKeyCompletes :
    ∃ (s : State) (rnd bad : BitVec 4) (k : Fin 11),
      s.busy = true ∧ rnd.toNat = k.val ∧ k = 10 ∧ 10 < bad.toNat ∧ bad = 11#4 :=
  ⟨inFlight 0x00000A0C#32 State.reset, 10#4, 11#4, 10, rfl, rfl, rfl, by decide, rfl⟩
theorem witness_ExpandKeyCompletes : (inFlight 0x10000003#32 State.reset).busy = true := rfl
theorem witness_EncryptCompletes :
    ∃ s t : State, s.busy = true ∧ s.lte = false ∧ t.busy = true ∧ t.lte = true ∧ t.seq = 40 ∧ t.tq = none :=
  ⟨inFlight 0x10100001#32 State.reset, tracing 40 false, rfl, rfl, rfl, rfl, rfl, rfl⟩
theorem witness_DecryptCompletes :
    ∃ s t : State, s.busy = true ∧ s.lte = false ∧ t.busy = true ∧ t.seq = 40 ∧ t.tq = none :=
  ⟨inFlight 0x10100002#32 State.reset, tracing 40 false, rfl, rfl, rfl, rfl, rfl⟩
theorem witness_StoredScheduleCommandsComplete :
    ∃ s t : State, s.busy = true ∧ s.lte = false ∧ t.busy = true ∧ t.seq = 40 ∧ t.tq = none :=
  ⟨inFlight 0x00100004#32 State.reset, tracing 40 false, rfl, rfl, rfl, rfl, rfl⟩

theorem tracing_tracedInv (k : Nat) (ph : Bool) (h : 2 * k + ph.toNat ≤ 80) :
    TracedInv .encrypt (.encrypt 16#5 16#5) (tracing k ph) :=
  ⟨rfl, rfl, h, fun _ he => by cases he⟩

/-- At the first event and at the last one, event 79. -/
theorem witness_TracedCommandEmitsTheNextEvent (s : State) (hs : s = tracing 0 false ∨ s = tracing 39 true) :
    s.busy = true ∧ cipherOf (.encrypt 16#5 16#5) = some .encrypt ∧ s.lte = true ∧
      TracedInv .encrypt (.encrypt 16#5 16#5) s ∧ s.tq = none ∧ emitted s < 80 := by
  rcases hs with rfl | rfl
  · exact ⟨rfl, rfl, rfl, tracing_tracedInv 0 false (by decide), rfl, by decide⟩
  · exact ⟨rfl, rfl, rfl, tracing_tracedInv 39 true (by decide), rfl, by decide⟩
theorem witness_TracedCommandWaitsForTheSink :
    waiting.busy = true ∧ waiting.lte = true ∧ (∃ e, waiting.tq = some e) ∧
    (Instr.encrypt 16#5 16#5).fields.op ∈ [0x1#4, 0x2#4, 0x4#4, 0x5#4] :=
  ⟨rfl, rfl, ⟨_, rfl⟩, by decide⟩
theorem witness_SinkAcceptsTheWaitingEvent :
    (∃ e, (withMove .sink waiting).tq = some e) ∧ (withMove .sink State.reset).tq = none ∧
    (withMove .sink waiting).moves = .sink :: [] :=
  ⟨⟨_, rfl⟩, rfl, rfl⟩
theorem witness_TraceHasEightyEvents :
    (stepTable .encrypt)[0]? = some ⟨0, .addRoundKey⟩ ∧ (stepTable .decrypt)[39]? = some ⟨0, .addRoundKey⟩ := by decide

/-- An idle state with TE = 1 whose moves are the CMD write of ENCRYPT and then the draining of its trace. -/
def traceRun : State :=
  { State.reset with te := true, moves := .busWrite 0x000#12 .b4 0x10100001#32 :: (drainMoves ++ []) }

theorem witness_TracedRunDeliversAndCompletes :
    ∃ (s : State) (w : Word) (i : Instr) (c : Cipher) (rest : List Move), s.busy = false ∧ s.te = true ∧ decode w = .ok i ∧ cipherOf i = some c ∧
      commandError i s.sv = none ∧ s.moves = .busWrite 0x000#12 .b4 w :: (drainMoves ++ rest) :=
  ⟨traceRun, 0x10100001#32, .encrypt 16#5 16#5, .encrypt, [], rfl, rfl, by decide, rfl, by decide, rfl⟩
theorem witness_TracingNeverChangesTheResult :
    ∃ (s : State) (w : Word) (i : Instr) (c : Cipher), s.busy = false ∧ decode w = .ok i ∧ cipherOf i = some c ∧ commandError i s.sv = none :=
  ⟨{ State.reset with sv := true }, 0x00100005#32, .decryptRk 16#5, .decrypt, rfl, by decide, rfl, by decide⟩
theorem witness_OnlyTheSinkOrResetEndsTheWait :
    waiting.busy = true ∧ tracedInFlight waiting = true ∧ (∃ e, waiting.tq = some e) ∧
    Move.sink ∉ waiting.moves ∧ Move.reset ∉ waiting.moves :=
  ⟨rfl, by decide, ⟨_, rfl⟩, by decide, by decide⟩

theorem busyGf_invariant : Invariant busyGf where
  outcome_exclusive := by decide
  code_iff := by decide
  seq_le := by decide
  schedule_valid h := by cases h
  idle_tq h := by cases h
  busy_outcome _ := ⟨rfl, rfl, rfl⟩
  busy_inFlight _ := ⟨.gfMul, by decide, by decide, (fun h => by cases h), rfl, rfl⟩

/-- A traced command waiting for the sink is in the invariant too. -/
theorem waiting_invariant : Invariant waiting where
  outcome_exclusive := by decide
  code_iff := by decide
  seq_le := by decide
  schedule_valid h := by cases h
  idle_tq h := by cases h
  busy_outcome _ := ⟨rfl, rfl, by decide⟩
  busy_inFlight _ :=
    ⟨.encrypt 16#5 16#5, by decide, by decide, fun _ => rfl, rfl, rfl, by decide, fun e he => by
      cases he
      exact ⟨by decide, rfl⟩⟩

theorem witness_EveryCommandCountsDownToCompletion :
    Invariant busyGf ∧ busyGf.busy = true ∧ coreEnabled busyGf = true ∧
    Invariant waiting ∧ waiting.busy = true ∧ sinkEnabled waiting = true :=
  ⟨busyGf_invariant, rfl, rfl, waiting_invariant, rfl, rfl⟩
theorem witness_TransformsUndoEachOther : Direction.forward ≠ Direction.inverse := by decide

/-- The 44 words of the schedule of K1 meet the hypothesis. -/
theorem witness_KeyScheduleInFlatForm :
    ∃ W : Nat → Fin 4 → Byte, ∀ (i : Fin 11) (c j : Fin 4),
      W (4 * i.val + c.val) j = (encodeState (expand keyK1)[i])[4 * c.val + j.val] :=
  ⟨fun n j => (encodeState (expand keyK1)[Fin.ofNat 11 (n / 4)])[4 * (n % 4) + j.val]'(by omega), by
    intro i c j
    have hi : Fin.ofNat 11 ((4 * i.val + c.val) / 4) = i := by
      apply Fin.ext
      simp only [Fin.ofNat]
      omega
    have hc : (4 * i.val + c.val) % 4 = c.val := by omega
    simp only [hi, hc]⟩
theorem witness_StepTablesAreTheLoops :
    ∀ r : Fin 11, r = 1 ∨ r = 9 → 1 ≤ r.val ∧ r.val ≤ 9 := by decide
theorem witness_EncryptThenDecryptGivesTheBlockBack :
    ∃ s : State, s.busy = false ∧ s.te = false ∧ s.moves = [.busWrite 0x000#12 .b4 0x10100001#32, .core] :=
  ⟨{ State.reset with moves := [.busWrite 0x000#12 .b4 0x10100001#32, .core] }, rfl, rfl, rfl⟩
theorem witness_StoredScheduleGivesTheSameResult : State.reset.busy = false ∧ State.reset.te = false := by decide

/-- The bounds of each cause of SLVERR of a read, and the offsets next to them that respond OKAY. -/
theorem witness_BusReadsFailExactlyAsListed :
    (∀ p : Offset × Size,
      p ∈ [(0x022#12, .b4), (0x031#12, .b2), (0x010#12, .b4), (0x01F#12, .b1), (0x060#12, .b4), (0x0FF#12, .b1),
        (0x1B0#12, .b4), (0xFFF#12, .b1), (0x000#12, .b1), (0x00E#12, .b2)] →
      stepTo (withMove (.busRead p.1 p.2) State.reset) (fun t => t.replies == [replyError]) = true) ∧
    (∀ p : Offset × Size,
      p ∈ [(0x000#12, .b4), (0x00C#12, .b4), (0x020#12, .b1), (0x05E#12, .b2), (0x05F#12, .b1)] →
      stepTo (withMove (.busRead p.1 p.2) State.reset) (fun t => t.replies.all (·.resp == .okay)) = true) := by
  decide +kernel

/-- The bounds of each cause of SLVERR of a write, those of BUSY = 1 last, and writes that respond OKAY. -/
theorem witness_BusWritesFailExactlyAsListed :
    (∀ p : Offset × Size,
      p ∈ [(0x022#12, .b4), (0x010#12, .b4), (0x0FF#12, .b1), (0x1B0#12, .b4), (0x008#12, .b2), (0x040#12, .b4),
        (0x05F#12, .b1), (0x100#12, .b4), (0x1AF#12, .b1)] →
      stepTo (withMove (.busWrite p.1 p.2 0#32) State.reset) (fun t => t.replies == [replyError]) = true) ∧
    (∀ p : Offset × Size, p ∈ [(0x000#12, .b4), (0x00C#12, .b4), (0x020#12, .b1), (0x03F#12, .b1)] →
      stepTo (withMove (.busWrite p.1 p.2 0#32) busyGf) (fun t => t.replies == [replyError]) = true ∧
      stepTo (withMove (.busWrite p.1 p.2 0#32) State.reset) (fun t => t.replies == [replyOkay]) = true) ∧
    (∀ p : Offset × Size, p ∈ [(0x004#12, .b4), (0x008#12, .b4)] →
      stepTo (withMove (.busWrite p.1 p.2 0#32) busyGf) (fun t => t.replies == [replyOkay]) = true) := by
  decide +kernel

/-- Each window at its first and at its last access. -/
theorem witness_DataWindowReadsReturnTheStoredBytes :
    (∀ p : Offset × Size,
      p ∈ [(0x020#12, .b1), (0x02C#12, .b4), (0x030#12, .b4), (0x03F#12, .b1), (0x040#12, .b2), (0x04E#12, .b2),
        (0x050#12, .b4), (0x05F#12, .b1), (0x100#12, .b4), (0x1AC#12, .b4)] →
      p.1.toNat % p.2.bytes = 0 ∧
        (0x020 ≤ p.1.toNat ∧ p.1.toNat < 0x060 ∨ 0x100 ≤ p.1.toNat ∧ p.1.toNat < 0x1B0)) ∧
    State.reset.busy = false ∧ { State.reset with sv := true }.sv = true := by decide
theorem witness_UnspecifiedReadsDrawFreshBytes :
    (0x05C#12).toNat % Size.b4.bytes = 0 ∧ 0x050 ≤ (0x05C#12).toNat ∧ (0x05C#12).toNat < 0x060 ∧ busyGf.busy = true ∧
    0x100 ≤ (0x100#12).toNat ∧ (0x1AC#12).toNat < 0x1B0 ∧ State.reset.sv = false := by decide
theorem witness_ControlRegisterReads :
    ∀ off : Offset, off ∈ [0x000#12, 0x004#12, 0x008#12, 0x00C#12] →
      (withMove (.busRead off .b4) State.reset).moves = .busRead off .b4 :: [] := fun _ _ => rfl
theorem witness_KeyAndDinWritesStoreTheirLanes :
    (∀ p : Offset × Size, p ∈ [(0x020#12, .b4), (0x02F#12, .b1)] →
      p.1.toNat % p.2.bytes = 0 ∧ 0x020 ≤ p.1.toNat ∧ p.1.toNat < 0x030) ∧
    (∀ p : Offset × Size, p ∈ [(0x030#12, .b2), (0x03C#12, .b4)] →
      p.1.toNat % p.2.bytes = 0 ∧ 0x030 ≤ p.1.toNat ∧ p.1.toNat < 0x040) ∧ State.reset.busy = false := by decide
theorem witness_ControlRegisterWrites :
    ∀ off : Offset, off ∈ [0x004#12, 0x008#12, 0x00C#12] →
      (withMove (.busWrite off .b4 0xFFFFFFFF#32) State.reset).moves = .busWrite off .b4 0xFFFFFFFF#32 :: [] ∧
      (withMove (.busWrite off .b4 0xFFFFFFFF#32) State.reset).busy = false := fun _ _ => ⟨rfl, rfl⟩

/-- One step of GF_MUL in flight is a completion that changes GF.P. -/
theorem witness_InputsAreFrozenWhileBusy : ∃ s t : State, s.busy = true ∧ ¬resetNext s ∧ step s = .next t :=
  ⟨busyGf, _, rfl, (fun h => by cases h), rfl⟩
theorem witness_InputsAreFrozenWhileBusy_still_busy :
    ∃ s t : State, s.busy = true ∧ ¬resetNext s ∧ step s = .next t ∧ t.busy = true :=
  ⟨withMove (.busRead 0x008#12 .b4) busyGf, _, rfl, (fun h => by cases h), rfl, rfl⟩
theorem witness_ResultsAreWrittenOnlyByCompletions :
    stepTo (inFlight 0x00000006#32 { State.reset with gfA := 1#8, gfB := 1#8 }) (fun t => t.gfP != 0#8) = true ∧
    stepTo (inFlight 0x00000009#32 State.reset) (fun t => t.st != Mat.zero) = true ∧
    stepTo (inFlight 0x00000008#32 { State.reset with dout := keyK1 }) (fun t => t.dout != keyK1) = true := by
  decide +kernel
theorem witness_ScheduleIsWrittenOnlyByExpansion :
    stepTo (inFlight 0x10000003#32 State.reset) (fun t => t.rk != Schedule.zero && t.sv) = true ∧
    stepTo (withMove (.busWrite 0x000#12 .b4 0x10000003#32) { State.reset with sv := true }) (fun t => !t.sv) = true := by
  decide +kernel
theorem witness_KeyAndDinAreWrittenOnlyByTheHost :
    stepTo (withMove (.busWrite 0x020#12 .b1 1#32) State.reset) (fun t => t.key != Block.zero) = true ∧
    stepTo (withMove (.busWrite 0x03F#12 .b1 1#32) State.reset) (fun t => t.din != Block.zero) = true := by
  decide +kernel

/-- 60_exceptions.md R270: with DONE or ERR pending, what the writes of CONFIG and STATUS make of IRQ, and that a command
error raises it. -/
theorem test_irq_level :
    stepTo (withMove (.busWrite 0x004#12 .b4 1#32) { State.reset with done := true }) State.irq = true ∧
    stepTo (withMove (.busWrite 0x008#12 .b4 2#32) { State.reset with done := true, ie := true }) (!State.irq ·) = true ∧
    stepTo (withMove (.busWrite 0x008#12 .b4 2#32) { State.reset with err := true, ie := true }) State.irq = true ∧
    stepTo (withMove (.busWrite 0x008#12 .b4 4#32) { State.reset with err := true, ie := true }) (!State.irq ·) = true ∧
    stepTo (withMove (.busWrite 0x000#12 .b4 0#32) { State.reset with ie := true }) State.irq = true := by decide
/-- One state for each clause. -/
theorem witness_InterruptIsALevel :
    (∀ off : Offset, off ∈ [0x000#12, 0x004#12, 0x008#12] →
      (withMove (.busWrite off .b4 0x00000000#32) State.reset).moves = .busWrite off .b4 0x00000000#32 :: [] ∧
      (withMove (.busWrite off .b4 0x00000000#32) State.reset).busy = false) ∧
    legal 0x00000000#32 = false ∧
    (withMove .reset State.reset).moves = .reset :: [] ∧
    (inFlight 0x00000006#32 { State.reset with ie := true }).busy = true ∧
    coreNext (inFlight 0x00000006#32 { State.reset with ie := true }) ∧
    stepTo (inFlight 0x00000006#32 { State.reset with ie := true }) (fun t => !t.busy) = true :=
  ⟨fun _ _ => ⟨rfl, rfl⟩, by decide, rfl, rfl, .inl rfl, by decide⟩
theorem witness_ResetEventAbortsAndResets : (withMove .reset waiting).moves = .reset :: [] := rfl
theorem witness_UnwrittenScheduleIsNeverRead : ∃ s t : State, Invariant s ∧ s.sv = false ∧ step s = .next t :=
  ⟨busyGf, _, busyGf_invariant, rfl, rfl⟩
theorem witness_StepKeepsTheInvariant : ∃ s t : State, Invariant s ∧ step s = .next t := ⟨busyGf, _, busyGf_invariant, rfl⟩
theorem witness_NoStepEverStops : ∃ s, Invariant s := ⟨waiting, waiting_invariant⟩

end Sys2Proof.Tests
end

section
/-!
What a CMD write does: the words that decode are the words `legal` admits (30_encoding.md R86 to R88), the checks of
dispatch in terms of the bits of the word (R88, 60_exceptions.md R265), and the write itself (30_encoding.md R89).
-/

namespace Sys2Proof

/-! ### The legal words of R88 are the words that decode -/

/-- Every row of R86 covers the reserved bits, and its match value has them 0. -/
theorem opRows_cover_reserved :
    ∀ row ∈ opRows, row.2 &&& reservedMask = reservedMask ∧ row.1 &&& reservedMask = 0#32 := by
  simp [opRows, reservedMask]

theorem reserved_of_legal {w : Word} (h : legal w = true) : w &&& reservedMask = 0#32 := by
  simp only [legal, Bool.and_eq_true, List.any_eq_true, decide_eq_true_eq] at h
  obtain ⟨⟨row, hrow, hmatch⟩, -⟩ := h
  obtain ⟨hmask, hvalue⟩ := opRows_cover_reserved row hrow
  calc w &&& reservedMask = w &&& row.2 &&& reservedMask := by rw [BitVec.and_assoc, hmask]
    _ = 0#32 := by rw [hmatch, hvalue]

theorem exists_ite_error_eq_ok {p : Prop} [Decidable p] {x : Except DecodeError Instr} {e : DecodeError} :
    (∃ i, (if p then x else .error e) = .ok i) ↔ p ∧ ∃ i, x = .ok i := by
  by_cases hp : p <;> simp [hp]

/-- On the words with reserved bits 0, the rows of R86 and the bound on RND admit the fields that decode. For each value
of OP the one row with that value and the arm of `decodeFields` ask for the same fields to be 0. -/
theorem legal_assemble_iff (f : Fields) : legal (assemble f) = true ↔ ∃ i, decodeFields f = .ok i := by
  obtain ⟨op, dir, rnd, blen, klen⟩ := f
  have hop : op = BitVec.ofNat 4 op.toNat := by simp
  have hlt := op.isLt
  generalize op.toNat = n at hop hlt
  subst hop
  simp only [legal, opRows_eq, fieldsOf_assemble, List.any_cons, List.any_nil, assemble_and_mask, assemble_inj,
    Fields.mk.injEq, decodeFields, whenUnusedZero]
  interval_cases n <;> simp [exists_ite_error_eq_ok, and_assoc, and_comm]

theorem legal_iff_decode (w : Word) : legal w = true ↔ ∃ i, decode w = .ok i := by
  by_cases hr : w &&& reservedMask = 0#32
  · have h := legal_assemble_iff (fieldsOf w)
    rwa [assemble_fieldsOf w hr, ← decode_assemble, assemble_fieldsOf w hr] at h
  · simp [decode_ok_iff, hr, mt reserved_of_legal hr]

theorem fieldsOf_of_decode {w : Word} {i : Instr} (h : decode w = .ok i) : fieldsOf w = i.fields :=
  (decodeFields_ok (decode_ok_iff.mp h).2).2.symm

/-- The bits of a legal word that the checks of dispatch look at. -/
theorem bits_of_decode {w : Word} {i : Instr} (h : decode w = .ok i) :
    w.extractLsb' 0 4 = i.fields.op ∧ w.extractLsb' 16 5 = i.fields.blen ∧ w.extractLsb' 24 5 = i.fields.klen := by
  rw [← fieldsOf_of_decode h]
  exact ⟨rfl, rfl, rfl⟩

theorem encode_of_decode {w : Word} {i : Instr} (h : decode w = .ok i) : encode i = w := by
  rw [encode, ← fieldsOf_of_decode h, assemble_fieldsOf w (decode_ok_iff.mp h).1]

namespace Machine

/-! ### The lists of R88, by the OP value -/

theorem wrongLength_blenOf (i : Instr) :
    wrongLength (blenOf i) = true ↔
      i.fields.op ∈ [0x1#4, 0x2#4, 0x4#4, 0x5#4, 0x7#4] ∧ i.fields.blen.toNat ≠ 16 := by
  cases i <;> simp [wrongLength, blenOf, Instr.fields]

theorem wrongLength_klenOf (i : Instr) :
    wrongLength (klenOf i) = true ↔ i.fields.op ∈ [0x1#4, 0x2#4, 0x3#4] ∧ i.fields.klen.toNat ≠ 16 := by
  cases i <;> simp [wrongLength, klenOf, Instr.fields]

theorem needsSched_iff_op (i : Instr) : needsSched i = true ↔ i.fields.op ∈ [0x4#4, 0x5#4, 0xC#4] := by
  cases i <;> simp [needsSched, Instr.fields]

theorem writesSched_iff_op (i : Instr) : writesSched i = true ↔ i.fields.op ∈ [0x1#4, 0x2#4, 0x3#4] := by
  cases i <;> simp [writesSched, Instr.fields]

/-- The checks of R265 on the command of a legal word, by the bits of the word. -/
theorem commandError_of_decode {w : Word} {i : Instr} (h : decode w = .ok i) (sv : Bool) :
    commandError i sv =
      if w.extractLsb' 0 4 ∈ [0x1#4, 0x2#4, 0x4#4, 0x5#4, 0x7#4] ∧ (w.extractLsb' 16 5).toNat ≠ 16 then
        some .invalidLength
      else if w.extractLsb' 0 4 ∈ [0x1#4, 0x2#4, 0x3#4] ∧ (w.extractLsb' 24 5).toNat ≠ 16 then some .invalidLength
      else if w.extractLsb' 0 4 ∈ [0x4#4, 0x5#4, 0xC#4] ∧ sv = false then some .noSchedule
      else none := by
  obtain ⟨hop, hblen, hklen⟩ := bits_of_decode h
  simp only [commandError, wellFormed_of_decode h, wrongLength_blenOf, wrongLength_klenOf, Bool.and_eq_true,
    needsSched_iff_op, Bool.not_eq_true', Bool.not_true, Bool.false_eq_true, if_false, hop, hblen, hklen]

/-- The writes of `accept(w)`, by the bits of the word (30_encoding.md R90). -/
theorem accept_of_decode {w : Word} {i : Instr} (h : decode w = .ok i) (s : State) :
    accept i s =
      { s with
        lcmd := w, lte := s.te, seq := 0, tq := none, busy := true
        sv := if w.extractLsb' 0 4 ∈ [0x1#4, 0x2#4, 0x3#4] then false else s.sv
        scratch := acceptScratch i s } := by
  simp only [accept, writesSched_iff_op, encode_of_decode h, (bits_of_decode h).1]

/-! ### The CMD write -/

theorem runWord_ok {w : Word} {i : Instr} (h : decode w = .ok i) (s : State) : runWord w s = exec i s := by
  simp [runWord, h]

theorem runWord_error {w : Word} {e : DecodeError} (h : decode w = .error e) (s : State) :
    runWord w s = .next (raiseCmdError .illegalCommand (clearOutcome s)) := by
  simp [runWord, h]

/-- The word write at offset 0 fails exactly while BUSY = 1. -/
theorem writeFails_cmd (s : State) : writeFails 0x000#12 .b4 s = s.busy := by
  simp [writeFails, accessFails, regionOf, controlRegion, Region.isControl, Region.isReadOnly, Region.isLocked,
    Size.bytes]

theorem step_cmdWrite_busy {s : State} {w : Word} {rest : List Move}
    (hm : s.moves = .busWrite 0x000#12 .b4 w :: rest) (hb : s.busy = true) :
    step s = .next (addReply replyError { s with moves := rest }) := by
  rw [step_cons hm, runMove, busWrite, writeFails_cmd, if_pos hb]

theorem step_cmdWrite_idle {s : State} {w : Word} {rest : List Move}
    (hm : s.moves = .busWrite 0x000#12 .b4 w :: rest) (hb : s.busy = false) :
    step s = runWord w (addReply replyOkay { s with moves := rest, cmd := w }) := by
  rw [step_cons hm, runMove, busWrite, writeFails_cmd, if_neg (by simp [hb]), if_pos (by decide)]
  rfl

/-- Settles O7: an illegal word does not decode; the command of a legal one passes the checks of R265 in the order of the
statement's branches, and the last branch is `accept(w)`. -/
theorem commandWriteDispatch : Obligations.CommandWriteDispatch := by
  unfold Obligations.CommandWriteDispatch
  intro s w rest hm
  refine ⟨step_cmdWrite_busy hm, fun hb => ?_⟩
  rw [step_cmdWrite_idle hm hb]
  cases hd : decode w with
  | error e =>
    have illegal : legal w = false := by simp [← Bool.not_eq_true, legal_iff_decode, hd]
    refine ⟨s.scratch, ?_⟩
    rw [runWord_error hd, if_pos illegal]
    rfl
  | ok i =>
    have isLegal : ¬legal w = false := by simp [legal_iff_decode, hd]
    refine ⟨acceptScratch i s, ?_⟩
    rw [runWord_ok hd, exec_idle (by simpa using hb), if_neg isLegal]
    simp only [dispatchCommand, addReply_fields, commandError_of_decode hd, accept_of_decode hd]
    split_ifs <;> rfl

end Machine

end Sys2Proof
end

section
/-!
The State model: the codec is a bijection between blocks and States (41_state_model.md R142), and LOAD_STATE writes the
decoded DIN to STATE (R140, R144).
-/

namespace Sys2Proof.Machine

/-! ### The codec -/

/-- Byte `i` goes to row `i mod 4` and column `i div 4`, whence `encode` reads it at `i mod 4 + 4·(i div 4) = i`. -/
@[simp] theorem encodeState_decodeBlock (b : Block) : encodeState (decodeBlock b) = b := by
  apply Vector.ext
  intro i hi
  simp only [encodeState_get, decodeBlock_at, Nat.mod_add_div]

/-- Element `(r, c)` goes to byte `r + 4·c`, whose row is `r` and whose column is `c` because `r < 4`. -/
@[simp] theorem decodeBlock_encodeState (s : Mat) : decodeBlock (encodeState s) = s := by
  apply Mat.ext_at
  intro r c
  have row : (r.val + 4 * c.val) % 4 = r.val := by omega
  have column : (r.val + 4 * c.val) / 4 = c.val := by omega
  simp only [decodeBlock_at, encodeState_get, row, column]

/-- Settles O36: each half is one of the two cancellation laws of the codec. -/
theorem codecIsABijection : Obligations.CodecIsABijection :=
  ⟨encodeState_decodeBlock, decodeBlock_encodeState⟩

/-! ### LOAD_STATE -/

/-- In flight, a well-formed command that runs no cipher completes at the core's next step: it has no event to wait for or
to emit (44_cipher_pipeline.md R227). -/
theorem exec_busy_single {s : State} {i : Instr} (hb : s.busy = true) (hw : i.wellFormed = true)
    (hc : cipherOf i = none) : exec i s = .next (completed i s) := by
  rcases exec_busy_cases hb hw with ⟨⟨c, hwaits⟩, -⟩ | ⟨c, p, hemits, -⟩ | ⟨-, hcompletes⟩
  · simp [hc] at hwaits
  · simp [hc] at hemits
  · exact hcompletes

/-- Settles O13: the completion writes `decode(DIN)`, whose elements R140 gives. -/
theorem loadStateCompletes : Obligations.LoadStateCompletes := by
  unfold Obligations.LoadStateCompletes
  intro s blen hb
  exact ⟨decodeBlock s.din, decodeBlock_at s.din, exec_busy_single hb rfl rfl⟩

end Sys2Proof.Machine
end

section
/-!
The round transforms in flight: SUB_BYTES, SHIFT_ROWS and MIX_COLUMNS write the transform of STATE that
43_round_transforms.md R181 to R184 describe element by element, and complete (R187 to R189).
-/

namespace Sys2Proof.Machine

/-! ### SubBytes and ShiftRows -/

/-- Settles O15: in each direction the completion writes the table entry of each byte. -/
theorem subBytesCompletes : Obligations.SubBytesCompletes := by
  unfold Obligations.SubBytesCompletes
  intro s dir hb
  refine ⟨subBytes dir s.st, fun r c => ?_, exec_busy_single hb rfl rfl⟩
  cases dir with
  | forward => simp only [subBytes_forward_at, if_true]
  | inverse => simp only [subBytes_inverse_at, reduceCtorEq, if_false]

/-- Settles O16: the columns `c + r` and `c - r` of the model are taken modulo 4, as R182's indices are. -/
theorem shiftRowsCompletes : Obligations.ShiftRowsCompletes := by
  unfold Obligations.ShiftRowsCompletes
  intro s dir hb
  refine ⟨shiftRows dir s.st, fun r c d hd => ?_, exec_busy_single hb rfl rfl⟩
  rcases hd with ⟨rfl, hd⟩ | ⟨rfl, hd⟩
  · have left : d = c + r := Fin.ext (hd.trans (Fin.val_add c r).symm)
    rw [shiftRows_forward_at, left]
  · have right : d = c - r := Fin.ext (by rw [hd, Fin.val_sub]; omega)
    rw [shiftRows_inverse_at, right]

/-! ### MixColumns -/

/-- The coefficient 01 leaves a byte as it is: both sides are additive in the byte. -/
@[simp] theorem gmul_one_left (b : Byte) : gmul 0x01#8 b = b :=
  XorAdditive.ext (f := gmul 0x01#8) (g := id) (gmulLoop_xor_right 8 _) (fun _ _ => rfl) (by decide) b

@[simp] theorem mixColumns_forward (s : Mat) : mixColumns .forward s = mixWith mixMatrix s := rfl

@[simp] theorem mixColumns_inverse (s : Mat) : mixColumns .inverse s = mixWith mixMatrixInv s := rfl

/-- Settles O17: each row is the matrix product with the entries of R183 or R184, where the coefficient 01 drops out. -/
theorem mixColumnsCompletes : Obligations.MixColumnsCompletes := by
  unfold Obligations.MixColumnsCompletes
  intro s dir hb
  refine ⟨mixColumns dir s.st, fun c => ⟨?_, ?_⟩, exec_busy_single hb rfl rfl⟩
  · rintro rfl
    simp only [mixColumns_forward, mixWith_at, mixMatrix_entries, gmul_one_left, BitVec.ofNat_eq_ofNat, and_self]
  · rintro rfl
    simp only [mixColumns_inverse, mixWith_at, mixMatrixInv_entries, BitVec.ofNat_eq_ofNat, and_self]

end Sys2Proof.Machine
end

section
/-!
Dispatch errors: a command that declares a wrong length is always well formed, so the length check of
60_exceptions.md R265 decides (R262), and the failed dispatch writes nothing but the outcome (R266).
-/

namespace Sys2Proof.Machine

/-! ### The failed dispatch -/

/-- A failed command writes the outcome registers and nothing else (60_exceptions.md R266). -/
theorem exec_of_commandError {s : State} {i : Instr} {code : ErrCode} (hb : s.busy = false)
    (h : commandError i s.sv = some code) :
    exec i s = .next { s with done := false, err := true, errcode := code } := by
  rw [exec_idle hb, dispatchCommand_error h]
  rfl

/-! ### Wrong lengths -/

@[simp] theorem wrongLength_some (len : BitVec 5) : wrongLength (some len) = true ↔ len.toNat ≠ 16 :=
  decide_eq_true_iff

/-- Only an ADD_ROUND_KEY term can be ill formed, and it declares no length. -/
theorem wellFormed_of_wrongLength {i : Instr} (h : wrongLength (blenOf i) = true ∨ wrongLength (klenOf i) = true) :
    i.wellFormed = true := by
  cases i with
  | addRoundKey rnd => simp [blenOf, klenOf, wrongLength] at h
  | _ => rfl

/-- The length checks come before the check of SV (60_exceptions.md R265). -/
theorem commandError_of_wrongLength {i : Instr} (h : wrongLength (blenOf i) = true ∨ wrongLength (klenOf i) = true)
    (sv : Bool) : commandError i sv = some .invalidLength := by
  rw [commandError, wellFormed_of_wrongLength h]
  rcases h with hblen | hklen
  · simp [hblen]
  · simp [hklen]

/-- Settles O8: the commands of the first list declare `blen`, those of the second `klen`, and either length being wrong
is INVALID_LENGTH. -/
theorem wrongLengthRaisesInvalidLength : Obligations.WrongLengthRaisesInvalidLength := by
  unfold Obligations.WrongLengthRaisesInvalidLength
  intro s blen klen i hb h
  have wrong : wrongLength (blenOf i) = true ∨ wrongLength (klenOf i) = true := by
    rcases h with ⟨hlen, hi⟩ | ⟨hlen, hi⟩
    · have declared : blenOf i = some blen := by
        simp only [List.mem_cons, List.not_mem_nil, or_false] at hi
        rcases hi with rfl | rfl | rfl | rfl | rfl <;> rfl
      exact .inl (by rwa [declared, wrongLength_some])
    · have declared : klenOf i = some klen := by
        simp only [List.mem_cons, List.not_mem_nil, or_false] at hi
        rcases hi with rfl | rfl | rfl <;> rfl
      exact .inr (by rwa [declared, wrongLength_some])
  exact exec_of_commandError hb (commandError_of_wrongLength wrong s.sv)

end Sys2Proof.Machine
end

section
/-!
Encoding: decode and encode undo each other on the well-formed commands (30_encoding.md R81 to R86), and the words that
do not decode are the four cases of R87.
-/

namespace Sys2Proof

/-! ### Decode and encode undo each other -/

@[simp] theorem directionOf_bit (d : Direction) : directionOf d.bit = d := by
  cases d <;> rfl

/-- The fields of a well-formed command decode to it: those that its OP does not use are 0. -/
theorem decodeFields_fields {i : Instr} (h : i.wellFormed = true) : decodeFields i.fields = .ok i := by
  cases i with
  | addRoundKey rnd =>
    have hrnd : rnd.toNat ≤ 10 := of_decide_eq_true h
    simp [decodeFields, Instr.fields, whenUnusedZero, hrnd]
  | _ => simp [decodeFields, Instr.fields, whenUnusedZero]

theorem decode_encode {i : Instr} (h : i.wellFormed = true) : decode (encode i) = .ok i := by
  rw [encode, decode_assemble, decodeFields_fields h]

/-- Settles O2: the word of a command has its fields, which decode to it. -/
theorem decodeOfEncodeIsTheCommand : Obligations.DecodeOfEncodeIsTheCommand :=
  fun _ => decode_encode

/-- Settles O3: a word is the assembly of its fields, and they are those of the command it decodes to. -/
theorem encodeOfDecodeIsTheWord : Obligations.EncodeOfDecodeIsTheWord :=
  fun _ _ h => ⟨wellFormed_of_decode h, encode_of_decode h⟩

/-- Settles O1: the decoder evaluates to each of the listed results. -/
theorem canonicalWordsDecode : Obligations.CanonicalWordsDecode := by
  unfold Obligations.CanonicalWordsDecode
  decide

/-! ### The four cases of an illegal word -/

theorem extractLsb'_eq_zero_iff (w : Word) (start len : Nat) :
    w.extractLsb' start len = 0#len ↔ ∀ j < len, w.getLsbD (start + j) = false := by
  constructor
  · intro h j hj
    have hbit := congrArg (fun x => x.getLsbD j) h
    simpa only [BitVec.getLsbD_extractLsb', hj, decide_true, Bool.true_and, BitVec.getLsbD_zero] using hbit
  · intro h
    apply BitVec.eq_of_getLsbD_eq
    intro j hj
    simp only [BitVec.getLsbD_extractLsb', hj, decide_true, Bool.true_and, BitVec.getLsbD_zero, h j hj]

/-- The reserved bits are the four groups of R81. -/
theorem reserved_eq_zero_iff (w : Word) :
    w &&& reservedMask = 0#32 ↔
      w.extractLsb' 29 3 = 0 ∧ w.extractLsb' 21 3 = 0 ∧ w.extractLsb' 12 4 = 0 ∧ w.extractLsb' 5 3 = 0 := by
  have bitwise : w &&& reservedMask = 0#32 ↔ ∀ j < 32, (w.getLsbD j && reservedMask.getLsbD j) = false := by
    have h := extractLsb'_eq_zero_iff (w &&& reservedMask) 0 32
    simpa only [BitVec.extractLsb'_eq_self, Nat.zero_add, BitVec.getLsbD_and] using h
  rw [bitwise]
  simp only [BitVec.ofNat_eq_ofNat, extractLsb'_eq_zero_iff, Nat.forall_lt_succ_left']
  simp [reservedMask]
  tauto

theorem exists_ite_error_eq_error {p : Prop} [Decidable p] {x : Except DecodeError Instr} {e₀ : DecodeError} :
    (∃ e, (if p then x else .error e₀) = .error e) ↔ ¬p ∨ ∃ e, x = .error e := by
  by_cases hp : p <;> simp [hp]

/-- R87 cases 1, 3 and 4, by the fields: for each value of OP, the arm of `decodeFields` refuses what the cases list. -/
theorem decodeFields_error_iff (f : Fields) :
    (∃ e, decodeFields f = .error e) ↔
      f.op ∈ [0x0#4, 0xD#4, 0xE#4, 0xF#4] ∨
      ((f.dir ≠ 0 ∧ f.op ∉ [0x9#4, 0xA#4, 0xB#4]) ∨ (f.rnd ≠ 0 ∧ f.op ≠ 0xC#4) ∨
        (f.blen ≠ 0 ∧ f.op ∉ [0x1#4, 0x2#4, 0x4#4, 0x5#4, 0x7#4]) ∨ (f.klen ≠ 0 ∧ f.op ∉ [0x1#4, 0x2#4, 0x3#4])) ∨
      (f.op = 0xC#4 ∧ 10 < f.rnd.toNat) := by
  obtain ⟨op, dir, rnd, blen, klen⟩ := f
  have hop : op = BitVec.ofNat 4 op.toNat := by simp
  have hlt := op.isLt
  generalize op.toNat = n at hop hlt
  subst hop
  simp only [decodeFields, whenUnusedZero]
  interval_cases n <;> simp [exists_ite_error_eq_error, or_assoc, or_comm, or_left_comm, -not_and, not_and_or]

theorem decode_error_iff (w : Word) :
    (∃ e, decode w = .error e) ↔ ¬w &&& reservedMask = 0#32 ∨ ∃ e, decodeFields (fieldsOf w) = .error e := by
  rw [decode, exists_ite_error_eq_error]

theorem legal_eq_false_iff (w : Word) : legal w = false ↔ ∃ e, decode w = .error e := by
  rw [← Bool.not_eq_true, legal_iff_decode]
  cases decode w <;> simp

/-- Settles O4: case 2 is the reserved bits, the other three are those of the fields. -/
theorem illegalWordsAreTheFourCases : Obligations.IllegalWordsAreTheFourCases := by
  unfold Obligations.IllegalWordsAreTheFourCases
  intro w
  refine ⟨?_, (legal_eq_false_iff w).symm⟩
  rw [decode_error_iff, reserved_eq_zero_iff, decodeFields_error_iff, or_left_comm]
  simp only [not_and_or, fieldsOf, ne_eq]

end Sys2Proof
end

section
/-!
The trace of a pipeline command: its 80 events (44_cipher_pipeline.md R226, R227), and what the core's step of a traced
command does with them (R229).
-/

namespace Sys2Proof.Machine

/-! ### The events of a trace -/

section Pairs

variable {α β : Type} (f g : α → β)

theorem length_flatMap_pair (l : List α) : (l.flatMap fun a => [f a, g a]).length = 2 * l.length := by
  induction l with
  | nil => rfl
  | cons a l ih =>
    rw [List.flatMap_cons, List.length_append, ih]
    simp only [List.length_cons, List.length_nil]
    omega

theorem getElem?_flatMap_pair (l : List α) (k : Nat) :
    (l.flatMap fun a => [f a, g a])[2 * k]? = l[k]?.map f ∧
    (l.flatMap fun a => [f a, g a])[2 * k + 1]? = l[k]?.map g := by
  induction l generalizing k with
  | nil => simp
  | cons a l ih =>
    cases k with
    | zero => exact ⟨rfl, rfl⟩
    | succ k => exact ih k

end Pairs

theorem traceEvents_length (c : Cipher) (rk : Schedule) (b : Block) : (traceEvents c rk b).length = 80 := by
  refine (length_flatMap_pair _ _ _).trans ?_
  rw [List.length_zipIdx, stepTable_length]

/-- Event `2k` is the one before step `k`. -/
theorem traceEvents_before {c : Cipher} {k : Nat} {p : PipeStep} (hp : (stepTable c)[k]? = some p) (rk : Schedule)
    (b : Block) :
    (traceEvents c rk b)[2 * k]? = some ⟨traceLabel c p false, encodeState (stateAfter c rk b k)⟩ := by
  refine (getElem?_flatMap_pair _ _ _ k).1.trans ?_
  simp [List.getElem?_zipIdx, hp]

/-- Event `2k + 1` is the one after step `k`. -/
theorem traceEvents_after {c : Cipher} {k : Nat} {p : PipeStep} (hp : (stepTable c)[k]? = some p) (rk : Schedule)
    (b : Block) :
    (traceEvents c rk b)[2 * k + 1]? = some ⟨traceLabel c p true, encodeState (stateAfter c rk b (k + 1))⟩ := by
  refine (getElem?_flatMap_pair _ _ _ k).2.trans ?_
  simp [List.getElem?_zipIdx, hp]

theorem exists_stepTable_row (c : Cipher) {k : Nat} (hk : k < 40) : ∃ p, (stepTable c)[k]? = some p :=
  ⟨_, List.getElem?_eq_getElem (by rwa [stepTable_length])⟩

theorem stepTable_get_eq_none_iff {c : Cipher} {k : Nat} : (stepTable c)[k]? = none ↔ 40 ≤ k := by
  rw [List.getElem?_eq_none_iff, stepTable_length]

/-- Settles O27: the events of step `k` stand at `2k` and `2k + 1`, and the State after step `k` is the one before step
`k + 1`. -/
theorem traceHasEightyEvents : Obligations.TraceHasEightyEvents := by
  unfold Obligations.TraceHasEightyEvents
  intro c rk b
  refine ⟨traceEvents_length c rk b, fun k p hp => ⟨traceEvents_before hp rk b, ?_⟩, fun k hk => ?_⟩
  · rw [traceEvents_after hp, stateAfter_succ c rk b hp]
  · obtain ⟨p, hp⟩ := exists_stepTable_row c (show k < 40 by omega)
    obtain ⟨q, hq⟩ := exists_stepTable_row c (show k + 1 < 40 by omega)
    rw [traceEvents_after hp, show 2 * k + 2 = 2 * (k + 1) from rfl, traceEvents_before hq]
    rfl

/-- Settles O26: the fields of the label are concatenated, the stage in the low four bits. -/
theorem traceLabelFormat : Obligations.TraceLabelFormat := by
  unfold Obligations.TraceLabelFormat
  rintro c ⟨stage, xf⟩ ph
  revert stage
  cases c <;> cases xf <;> cases ph <;> decide

/-! ### The core's step of a traced command -/

theorem wellFormed_of_cipherOf {i : Instr} {c : Cipher} (h : cipherOf i = some c) : i.wellFormed = true := by
  cases i with
  | addRoundKey rnd => cases h
  | _ => rfl

section Busy

variable {s : State} {i : Instr} {c : Cipher} (hb : s.busy = true)
include hb

theorem exec_waits {e : TraceEvent} (hc : cipherOf i = some c) (hl : s.lte = true) (ht : s.tq = some e) :
    exec i s = .next s := by
  rcases exec_busy_cases hb (wellFormed_of_cipherOf hc) with ⟨-, -, -, hwaits⟩ | ⟨_, _, -, -, hnone, -⟩ | ⟨hnone, -⟩
  · exact hwaits
  · simp [ht] at hnone
  · exact absurd (hnone c hc hl).1 (by simp [ht])

theorem exec_emits {p : PipeStep} (hc : cipherOf i = some c) (hl : s.lte = true) (ht : s.tq = none)
    (hp : (stepTable c)[s.seq]? = some p) : exec i s = .next (emitEvent c p s) := by
  rcases exec_busy_cases hb (wellFormed_of_cipherOf hc) with
    ⟨-, -, ⟨e, hsome⟩, -⟩ | ⟨c', p', hc', -, -, hp', hemits⟩ | ⟨hend, -⟩
  · simp [ht] at hsome
  · rw [hc] at hc'
    cases hc'
    rw [hp] at hp'
    cases hp'
    exact hemits
  · exact absurd ((hend c hc hl).2.symm.trans hp) (by simp)

theorem exec_completes (hw : i.wellFormed = true)
    (hend : ∀ c, cipherOf i = some c → s.lte = true → s.tq = none ∧ 40 ≤ s.seq) :
    exec i s = .next (completed i s) := by
  rcases exec_busy_cases hb hw with ⟨⟨c, hc⟩, hl, ⟨e, hsome⟩, -⟩ | ⟨c, p, hc, hl, -, hp, -⟩ | ⟨-, hcompletes⟩
  · simp [(hend c hc hl).1] at hsome
  · have := lt_of_stepTable_get hp
    have := (hend c hc hl).2
    omega
  · exact hcompletes

end Busy

/-- The pipeline commands of 30_encoding.md R88, by the OP value. -/
theorem cipherOf_isSome_iff_op (i : Instr) :
    (∃ c, cipherOf i = some c) ↔ i.fields.op ∈ [0x1#4, 0x2#4, 0x4#4, 0x5#4] := by
  cases i <;> simp [cipherOf, Instr.fields]

/-- Settles O24: the pipeline commands are those with a cipher, and they wait while TQ holds an event. -/
theorem tracedCommandWaitsForTheSink : Obligations.TracedCommandWaitsForTheSink := by
  unfold Obligations.TracedCommandWaitsForTheSink
  intro s i e hb hl ht hop
  obtain ⟨c, hc⟩ := (cipherOf_isSome_iff_op i).mpr hop
  exact exec_waits hb hc hl ht

/-! ### What an emission does to the trace -/

/-- An emission leaves every field alone but TQ, seq and scratch. -/
@[simp] theorem emitEvent_frame (c : Cipher) (p : PipeStep) (s : State) :
    (emitEvent c p s).cmd = s.cmd ∧ (emitEvent c p s).ie = s.ie ∧ (emitEvent c p s).te = s.te ∧
    (emitEvent c p s).busy = s.busy ∧ (emitEvent c p s).done = s.done ∧ (emitEvent c p s).err = s.err ∧
    (emitEvent c p s).sv = s.sv ∧ (emitEvent c p s).errcode = s.errcode ∧ (emitEvent c p s).gfA = s.gfA ∧
    (emitEvent c p s).gfB = s.gfB ∧ (emitEvent c p s).gfP = s.gfP ∧ (emitEvent c p s).key = s.key ∧
    (emitEvent c p s).din = s.din ∧ (emitEvent c p s).dout = s.dout ∧ (emitEvent c p s).st = s.st ∧
    (emitEvent c p s).rk = s.rk ∧ (emitEvent c p s).lcmd = s.lcmd ∧ (emitEvent c p s).lte = s.lte ∧
    (emitEvent c p s).delivered = s.delivered ∧ (emitEvent c p s).replies = s.replies ∧
    (emitEvent c p s).moves = s.moves ∧ (emitEvent c p s).draws = s.draws := by
  rw [emitEvent_eq]
  simp

theorem emitted_emitEvent (c : Cipher) (p : PipeStep) (s : State) : emitted (emitEvent c p s) = emitted s + 1 := by
  unfold emitted emitEvent
  cases hph : s.scratch.ph with
  | false => simp
  | true =>
    simp
    omega

/-- While fewer than 80 events are out, `seq` is a row of the table. -/
theorem exists_row_of_emitted_lt {s : State} (c : Cipher) (h : emitted s < 80) :
    ∃ p, (stepTable c)[s.seq]? = some p := by
  apply exists_stepTable_row
  unfold emitted at h
  omega

section Traced

variable {s : State} {i : Instr} {c : Cipher} {p : PipeStep}

theorem emitted_lt_of_row (hp : (stepTable c)[s.seq]? = some p) : emitted s < 80 := by
  have := lt_of_stepTable_get hp
  have := Bool.toNat_le s.scratch.ph
  unfold emitted
  omega

variable (h : TracedInv c i s) (hp : (stepTable c)[s.seq]? = some p)
include h hp

/-- The event emitted is the next one of R227: number `emitted s`. -/
theorem emitEvent_tq : (emitEvent c p s).tq = (traceEvents c (scheduleOf i s) s.din)[emitted s]? := by
  obtain ⟨hrk, hst, -, -⟩ := h
  unfold emitted emitEvent
  cases hph : s.scratch.ph with
  | false => simp [traceEvents_before hp, hst]
  | true => simp [traceEvents_after hp, stateAfter_succ c _ _ hp, hrk, hst]

theorem emitEvent_tracedInv : TracedInv c i (emitEvent c p s) := by
  have hsched : scheduleOf i (emitEvent c p s) = scheduleOf i s := scheduleOf_congr (by simp) (by simp)
  have htq := emitEvent_tq h hp
  have hlt := emitted_lt_of_row hp
  obtain ⟨hrk, hst, -, -⟩ := h
  simp only [TracedInv, hsched, emitted_emitEvent, emitEvent_frame, htq]
  refine ⟨?_, ?_, hlt, fun e he => ⟨Nat.succ_pos _, he⟩⟩
  · unfold emitEvent
    split <;> simpa using hrk
  · unfold emitEvent
    split
    · simp only [stateAfter_succ c _ _ hp, hrk, hst]
    · exact hst

end Traced

/-- Settles O23: with events left `seq` is a row of the table, so the core emits, and it emits the next event. -/
theorem tracedCommandEmitsTheNextEvent : Obligations.TracedCommandEmitsTheNextEvent := by
  unfold Obligations.TracedCommandEmitsTheNextEvent
  intro s i c hb hc hl hinv ht hlt
  obtain ⟨p, hp⟩ := exists_row_of_emitted_lt c hlt
  obtain ⟨e, he⟩ : ∃ e, (traceEvents c (scheduleOf i s) s.din)[emitted s]? = some e :=
    ⟨_, List.getElem?_eq_getElem (by rwa [traceEvents_length])⟩
  have htq : (emitEvent c p s).tq = some e := (emitEvent_tq hinv hp).trans he
  refine ⟨e, (emitEvent c p s).seq, (emitEvent c p s).scratch, ?_, he, emitted_emitEvent c p s⟩
  rw [exec_emits hb hc hl ht hp, emitEvent_eq, htq]

/-! ### The sink -/

theorem sinkAccept_some {s : State} {e : TraceEvent} (h : s.tq = some e) :
    sinkAccept s = { s with tq := none, delivered := s.delivered ++ [e] } := by
  simp [sinkAccept, h]

theorem sinkAccept_none {s : State} (h : s.tq = none) : sinkAccept s = s := by
  simp [sinkAccept, h]

/-- Settles O25: the two cases of the sink's step. -/
theorem sinkAcceptsTheWaitingEvent : Obligations.SinkAcceptsTheWaitingEvent := by
  unfold Obligations.SinkAcceptsTheWaitingEvent
  intro s rest hm
  rw [step_cons hm, runMove]
  exact ⟨fun e he => by rw [sinkAccept_some (s := { s with moves := rest }) he],
    fun hn => by rw [sinkAccept_none (s := { s with moves := rest }) hn]⟩

end Sys2Proof.Machine
end

section
/-!
The invariant: it holds at reset, every step keeps it (10_state.md R26, 30_encoding.md R89 to R92), and from a state of
it no step stops.
-/

namespace Sys2Proof.Machine

/-! ### At reset -/

theorem invariant_reset : Invariant State.reset where
  outcome_exclusive h := by cases h.1
  code_iff := ⟨fun _ => rfl, fun _ => rfl⟩
  seq_le := Nat.zero_le _
  schedule_valid h := by cases h
  idle_tq _ := rfl
  busy_outcome h := by cases h
  busy_inFlight h := by cases h

/-- Settles O58: nothing is in flight, and no outcome is set. -/
theorem invariantAtReset : Obligations.InvariantAtReset := invariant_reset

/-! ### No step stops -/

/-- A command of a legal word in flight always has a next state. -/
theorem coreMove_next {s : State} (h : s.busy = true → ∃ i, decode s.lcmd = .ok i) : ∃ t, coreMove s = .next t := by
  cases hb : s.busy with
  | false => exact ⟨s, coreMove_idle hb⟩
  | true =>
    obtain ⟨i, hi⟩ := h hb
    rw [coreMove_busy hb hi]
    rcases exec_busy_cases hb (wellFormed_of_decode hi) with
      ⟨-, -, -, hwaits⟩ | ⟨c, p, -, -, -, -, hemits⟩ | ⟨-, hcompletes⟩
    · exact ⟨_, hwaits⟩
    · exact ⟨_, hemits⟩
    · exact ⟨_, hcompletes⟩

theorem Invariant.runMove_next {s : State} (hi : Invariant s) (m : Move) : ∃ t, runMove m s = .next t := by
  by_cases hm : m = .core
  · subst hm
    refine coreMove_next fun hb => ?_
    obtain ⟨i, hd, -⟩ := hi.busy_inFlight hb
    exact ⟨i, hd⟩
  · exact runMove_next_of_ne_core hm s

/-- Settles O60: only a core without a legal command in flight can stop, and the invariant excludes it. -/
theorem noStepEverStops : Obligations.NoStepEverStops := by
  unfold Obligations.NoStepEverStops
  intro s hi
  cases hm : s.moves with
  | nil =>
    rw [step_nil hm]
    exact hi.runMove_next .core
  | cons m rest =>
    rw [step_cons hm]
    exact (hi.setMoves rest).runMove_next m

/-! ### The invariant of an idle machine -/

/-- At BUSY = 0 only the outcome, seq, the schedule and TQ matter. -/
theorem Invariant.of_idle {s : State} (hb : s.busy = false) (hout : ¬(s.done = true ∧ s.err = true))
    (hcode : s.errcode = .noError ↔ s.err = false) (hseq : s.seq ≤ 40)
    (hsched : s.sv = true → ∃ key, s.rk = expand key) (htq : s.tq = none) : Invariant s where
  outcome_exclusive := hout
  code_iff := hcode
  seq_le := hseq
  schedule_valid := hsched
  idle_tq _ := htq
  busy_outcome h := by simp [hb] at h
  busy_inFlight h := by simp [hb] at h

theorem completed_seq_le (i : Instr) {s : State} (h : s.seq ≤ 40) : (completed i s).seq ≤ 40 := by
  cases hc : cipherOf i with
  | none => rwa [completed_seq hc]
  | some c =>
    obtain ⟨-, -, hseq, -⟩ := completed_cipher hc s
    rw [hseq]

/-- The command `i` in flight is traced: a pipeline command with LTE = 1 (44_cipher_pipeline.md R227). -/
def Traced (i : Instr) (s : State) : Prop := ∃ c, cipherOf i = some c ∧ s.lte = true

/-- The invariant of a command in flight, of a traced one and of one that is not. -/
theorem inFlightInv_traced {i : Instr} {s : State} {c : Cipher} (hc : cipherOf i = some c) (hl : s.lte = true) :
    InFlightInv i s ↔ commandError i s.sv = none ∧ (writesSched i = true → s.sv = false) ∧ TracedInv c i s := by
  simp [InFlightInv, hc, hl]

theorem inFlightInv_untraced {i : Instr} {s : State} (h : ¬Traced i s) :
    InFlightInv i s ↔ commandError i s.sv = none ∧ (writesSched i = true → s.sv = false) ∧ UntracedInv s := by
  unfold Traced at h
  cases hc : cipherOf i with
  | none => simp [InFlightInv, hc]
  | some c => simp_all [InFlightInv]

/-- The invariant of the command that LCMD decodes to. -/
theorem Invariant.inFlight {s : State} (hi : Invariant s) (hb : s.busy = true) {i : Instr}
    (hd : decode s.lcmd = .ok i) : InFlightInv i s := by
  obtain ⟨j, hj, hf⟩ := hi.busy_inFlight hb
  rw [hd] at hj
  cases hj
  exact hf

/-- At a completion the invariant holds again: the outcome was clear, and no event waits. -/
theorem Invariant.completed {s : State} (hi : Invariant s) (hb : s.busy = true) {i : Instr} (hd : decode s.lcmd = .ok i)
    (hend : ∀ c, cipherOf i = some c → s.lte = true → s.tq = none ∧ (stepTable c)[s.seq]? = none) :
    Invariant (completed i s) := by
  obtain ⟨-, herr, -⟩ := hi.busy_outcome hb
  obtain ⟨hrk, hsv⟩ := completed_schedule i s
  have hframe := completed_frame i s
  refine .of_idle (by simp [hframe]) (by simp [hframe, herr]) (by simp [hframe, hi.code_iff])
    (completed_seq_le i hi.seq_le) ?_ ?_
  · rw [hrk, hsv]
    split
    · exact fun _ => ⟨s.key, rfl⟩
    · exact hi.schedule_valid
  · simp only [hframe]
    by_cases ht : Traced i s
    · obtain ⟨c, hc, hl⟩ := ht
      exact (hend c hc hl).1
    · obtain ⟨-, -, htq, -⟩ := (inFlightInv_untraced ht).mp (hi.inFlight hb hd)
      exact htq

/-! ### The invariant of a command in flight -/

theorem writesSched_not_needsSched {i : Instr} (h : writesSched i = true) : needsSched i = false := by
  cases i <;> simp_all [writesSched, needsSched]

theorem isPipeline_of_cipherOf {i : Instr} {c : Cipher} (h : cipherOf i = some c) : isPipeline i = true := by
  cases i <;> simp_all [cipherOf, isPipeline]

/-- The checks of dispatch still pass after acceptance has cleared SV for a command that writes the schedule. -/
theorem commandError_accept {i : Instr} {sv : Bool} (h : commandError i sv = none) :
    commandError i (if writesSched i then false else sv) = none := by
  cases hw : writesSched i with
  | false => exact h
  | true =>
    rw [commandError_eq_none] at h ⊢
    obtain ⟨hwell, hblen, hklen, -⟩ := h
    exact ⟨hwell, hblen, hklen, by simp [writesSched_not_needsSched hw]⟩

/-- An accepted pipeline command has its trace before it: seq = 0, scratch at `s_0`, TQ empty. -/
theorem accept_tracedInv {i : Instr} {c : Cipher} (hc : cipherOf i = some c) (s : State) :
    TracedInv c i (accept i s) := by
  have hsched : scheduleOf i (accept i s) = scheduleOf i s := scheduleOf_congr (by simp) (by simp)
  simp [TracedInv, emitted, hsched, acceptScratch, isPipeline_of_cipherOf hc]

theorem accept_inFlightInv {i : Instr} {s : State} (h : commandError i s.sv = none) : InFlightInv i (accept i s) := by
  have herror : commandError i (accept i s).sv = none := by simpa using commandError_accept h
  have hwrites : writesSched i = true → (accept i s).sv = false := fun hw => by simp [hw]
  by_cases ht : Traced i (accept i s)
  · obtain ⟨c, hc, hl⟩ := ht
    exact (inFlightInv_traced hc hl).mpr ⟨herror, hwrites, accept_tracedInv hc s⟩
  · exact (inFlightInv_untraced ht).mpr ⟨herror, hwrites, by simp, by simp⟩

/-- Acceptance of the command of the word in CMD gives the invariant, from any idle state with a valid schedule. -/
theorem accept_invariant {i : Instr} {s : State} (hd : decode s.cmd = .ok i) (hc : commandError i s.sv = none)
    (hdone : s.done = false) (herr : s.err = false) (hcode : s.errcode = .noError)
    (hsched : s.sv = true → ∃ key, s.rk = expand key) : Invariant (accept i s) where
  outcome_exclusive := by simp [hdone]
  code_iff := by simp [hcode, herr]
  seq_le := by simp
  schedule_valid := by
    simp only [accept_fields]
    split
    · simp
    · exact hsched
  idle_tq _ := by simp
  busy_outcome _ := by simp [hdone, herr, encode_of_decode hd]
  busy_inFlight _ := ⟨i, by simp [encode_of_decode hd, hd], accept_inFlightInv hc⟩

/-- An emission keeps the invariant of a traced command. -/
theorem Invariant.emitEvent {s : State} (hi : Invariant s) (hb : s.busy = true) {i : Instr} {c : Cipher} {p : PipeStep}
    (hd : decode s.lcmd = .ok i) (hc : cipherOf i = some c) (hl : s.lte = true) (hp : (stepTable c)[s.seq]? = some p) :
    Invariant (emitEvent c p s) := by
  obtain ⟨herror, hwrites, htraced⟩ := (inFlightInv_traced hc hl).mp (hi.inFlight hb hd)
  have htraced' := emitEvent_tracedInv htraced hp
  have ⟨_, _, hle, _⟩ := htraced'
  refine
    { outcome_exclusive := by simpa using hi.outcome_exclusive
      code_iff := by simpa using hi.code_iff
      seq_le := by unfold emitted at hle; omega
      schedule_valid := by simpa using hi.schedule_valid
      idle_tq := by simp [hb]
      busy_outcome := by simpa using hi.busy_outcome
      busy_inFlight := fun _ => ⟨i, by simpa using hd, ?_⟩ }
  exact (inFlightInv_traced hc (by simpa using hl)).mpr ⟨by simpa using herror, by simpa using hwrites, htraced'⟩

/-- The sink's acceptance keeps the invariant: an event waits only while a command is in flight. -/
theorem Invariant.sinkAccept {s : State} (hi : Invariant s) {e : TraceEvent} (he : s.tq = some e) :
    Invariant { s with tq := none, delivered := s.delivered ++ [e] } := by
  have hb : s.busy = true := by
    by_contra hb
    simp [hi.idle_tq (by simpa using hb)] at he
  obtain ⟨i, hd, hf⟩ := hi.busy_inFlight hb
  refine ⟨hi.outcome_exclusive, hi.code_iff, hi.seq_le, hi.schedule_valid, fun _ => rfl, hi.busy_outcome,
    fun _ => ⟨i, hd, ?_⟩⟩
  by_cases ht : Traced i s
  · obtain ⟨c, hc, hl⟩ := ht
    obtain ⟨herror, hwrites, hrk, hst, hle, -⟩ := (inFlightInv_traced hc hl).mp hf
    exact (inFlightInv_traced (s := { s with tq := none, delivered := s.delivered ++ [e] }) hc hl).mpr
      ⟨herror, hwrites, hrk, hst, hle, fun _ h => by cases h⟩
  · obtain ⟨herror, hwrites, -, hseq⟩ := (inFlightInv_untraced ht).mp hf
    exact (inFlightInv_untraced (s := { s with tq := none, delivered := s.delivered ++ [e] }) ht).mpr
      ⟨herror, hwrites, rfl, hseq⟩

/-! ### Every step keeps the invariant -/

/-- CONFIG, GF, what stands around the core and the draws are no part of the invariant. -/
theorem Invariant.setOutside {s : State} (hi : Invariant s) (ie te : Bool) (a b : Byte) (events : List TraceEvent)
    (replies : List BusReply) (moves : List Move) (draws : Nat) :
    Invariant { s with
      ie := ie, te := te, gfA := a, gfB := b
      delivered := events, replies := replies, moves := moves, draws := draws } :=
  hi.congr rfl rfl rfl (fun _ => rfl) rfl rfl (fun _ => rfl) rfl rfl rfl rfl hi.outcome_exclusive hi.code_iff fun h =>
    have ⟨hdone, herr, _⟩ := hi.busy_outcome h
    ⟨hdone, herr⟩

/-- A STATUS write can only clear DONE, and ERR with ERRCODE. -/
theorem Invariant.clearStatus {s : State} (hi : Invariant s) (clearDone clearErr : Bool) :
    Invariant { s with
      done := if clearDone then false else s.done
      err := if clearErr then false else s.err
      errcode := if clearErr then .noError else s.errcode } := by
  have hout := hi.outcome_exclusive
  refine hi.congr rfl rfl rfl (fun _ => rfl) rfl rfl (fun _ => rfl) rfl rfl rfl rfl ?_ ?_ fun h => ?_
  · rintro ⟨hd, he⟩
    simp_all
  · cases clearErr
    · exact hi.code_iff
    · simp
  · obtain ⟨hd, he, -⟩ := hi.busy_outcome h
    simp [hd, he]

/-- At BUSY = 0 no command works with KEY and DIN. -/
theorem Invariant.setKeyDin {s : State} (hi : Invariant s) (hb : s.busy = false) (key din : Block) :
    Invariant { s with key := key, din := din } :=
  .of_idle (s := { s with key := key, din := din }) hb hi.outcome_exclusive hi.code_iff hi.seq_le hi.schedule_valid
    (hi.idle_tq hb)

theorem Invariant.moveDoes {m : Move} {s t : State} (hi : Invariant s) (h : MoveDoes m s t) : Invariant t := by
  cases h with
  | read off n r d _ => exact hi.setOutside ..
  | noWrite off n x r _ => exact hi.setOutside ..
  | cmdError w code _ hb hcode =>
    exact .of_idle (by simpa using hb) (by simp) (by simpa using hcode) (by simpa using hi.seq_le)
      (by simpa using hi.schedule_valid) (by simpa using hi.idle_tq hb)
  | accepted w i _ hb hd hc =>
    exact accept_invariant (by simpa using hd) (by simpa using hc) (by simp) (by simp) (by simp)
      (by simpa using hi.schedule_valid)
  | config off n x _ => exact hi.setOutside ..
  | status off n x _ => exact (hi.clearStatus _ _).setOutside ..
  | gf off n x _ hb => exact hi.setOutside ..
  | key off n x _ hb _ => exact (hi.setKeyDin hb _ s.din).setOutside ..
  | din off n x _ hb _ => exact (hi.setKeyDin hb s.key _).setOutside ..
  | idle _ _ => exact hi
  | wait i c e _ _ _ _ _ _ => exact hi
  | emit i c p _ hb hd hc hl _ hp => exact hi.emitEvent hb hd hc hl hp
  | completes i _ hb hd hend => exact hi.completed hb hd hend
  | sinkNone _ _ => exact hi
  | sinkSome e _ he => exact hi.sinkAccept he
  | reset _ => exact invariant_reset.setOutside false false 0#8 0#8 s.delivered s.replies s.moves s.draws

/-- Settles O59: whatever the next move does, it keeps the invariant of the state without that move. -/
theorem stepKeepsTheInvariant : Obligations.StepKeepsTheInvariant := by
  unfold Obligations.StepKeepsTheInvariant
  intro s t hi hstep
  obtain ⟨m, -, hdoes⟩ := step_does hstep
  exact (hi.setMoves s.moves.tail).moveDoes hdoes

end Sys2Proof.Machine
end

section
/-!
The way of a command to its completion: how far it is (30_encoding.md R91, R92), who can bring it nearer, and that a
waiting trace event keeps it where it is (44_cipher_pipeline.md R229, 70_reset_and_hazards.md R299).
-/

namespace Sys2Proof.Machine

/-! ### Bus transactions at BUSY = 1 -/

/-- The move is a bus read or a bus write. -/
def IsBus (m : Move) : Prop := m ≠ .core ∧ m ≠ .sink ∧ m ≠ .reset

/-- At BUSY = 1 a bus transaction touches nothing of the command in flight (20_memory.md R60). -/
theorem MoveDoes.bus_busy {m : Move} {s t : State} (h : MoveDoes m s t) (hm : IsBus m) (hb : s.busy = true) :
    t.busy = true ∧ t.lcmd = s.lcmd ∧ t.lte = s.lte ∧ t.seq = s.seq ∧ t.tq = s.tq ∧ t.scratch = s.scratch ∧
    t.delivered = s.delivered ∧ t.moves = s.moves ∧ (s.done = false → t.done = false) := by
  obtain ⟨hcore, hsink, hreset⟩ := hm
  cases h with
  | read | noWrite | config | status => simp +contextual [hb]
  | cmdError _ _ _ hidle | accepted _ _ _ hidle | gf _ _ _ _ hidle | key _ _ _ _ hidle | din _ _ _ _ hidle =>
    simp [hb] at hidle
  | idle h | wait _ _ _ h | emit _ _ _ h | completes _ h => exact absurd h hcore
  | sinkNone h | sinkSome _ h => exact absurd h hsink
  | reset h => exact absurd h hreset

/-! ### How far a command is from its completion -/

theorem tracedInFlight_iff {s : State} {i : Instr} (hd : decode s.lcmd = .ok i) :
    tracedInFlight s = true ↔ Traced i s := by
  simp [tracedInFlight, hd, Traced, Option.isSome_iff_exists]

theorem tracedInFlight_eq_false {s : State} {i : Instr} (hd : decode s.lcmd = .ok i) (h : ¬Traced i s) :
    tracedInFlight s = false :=
  Bool.eq_false_iff.mpr (mt (tracedInFlight_iff hd).mp h)

theorem remaining_idle {s : State} (hb : s.busy = false) : remaining s = 0 := by
  simp [remaining, hb]

theorem remaining_traced {s : State} (hb : s.busy = true) (ht : tracedInFlight s = true) :
    remaining s = 2 * (80 - emitted s) + s.tq.isSome.toNat + 1 := by
  simp [remaining, hb, ht]

theorem remaining_untraced {s : State} (hb : s.busy = true) (ht : tracedInFlight s = false) : remaining s = 1 := by
  simp [remaining, hb, ht]

theorem tracedInFlight_congr {s t : State} (hlc : t.lcmd = s.lcmd) (hl : t.lte = s.lte) :
    tracedInFlight t = tracedInFlight s := by
  simp only [tracedInFlight, hlc, hl]

/-- The distance depends on BUSY, the command in flight and the progress of its trace alone. -/
theorem remaining_congr {s t : State} (hb : t.busy = s.busy) (hlc : t.lcmd = s.lcmd) (hl : t.lte = s.lte)
    (hq : t.seq = s.seq) (ht : t.tq = s.tq) (hx : t.scratch = s.scratch) : remaining t = remaining s := by
  simp only [remaining, tracedInFlight_congr hlc hl, emitted, hb, hq, ht, hx]

/-- The count of emitted events is at most 80, and the event in TQ is one of them. -/
theorem TracedInv.emitted_bounds {c : Cipher} {i : Instr} {s : State} (h : TracedInv c i s) :
    emitted s ≤ 80 ∧ s.tq.isSome.toNat ≤ emitted s := by
  obtain ⟨-, -, hle, htq⟩ := h
  refine ⟨hle, ?_⟩
  cases ht : s.tq with
  | none => simp
  | some e =>
    obtain ⟨hpos, -⟩ := htq e ht
    exact hpos

section InFlight

variable {s : State} {i : Instr} (hb : s.busy = true) (hd : decode s.lcmd = .ok i) (hf : InFlightInv i s)
include hb hd hf

theorem remaining_bounds : 0 < remaining s ∧ remaining s ≤ 161 := by
  by_cases ht : Traced i s
  · rw [remaining_traced hb ((tracedInFlight_iff hd).mpr ht)]
    obtain ⟨c, hc, hl⟩ := ht
    obtain ⟨-, -, htraced⟩ := (inFlightInv_traced hc hl).mp hf
    have := htraced.emitted_bounds
    have := Bool.toNat_le s.tq.isSome
    omega
  · rw [remaining_untraced hb (tracedInFlight_eq_false hd ht)]
    omega

/-- The core's move brings a traced command one step nearer by an emission, and any command by its completion. -/
theorem coreMove_remaining : ∃ t, coreMove s = .next t ∧ remaining t + (coreEnabled s).toNat = remaining s := by
  rw [coreMove_busy hb hd]
  rcases exec_busy_cases hb (wellFormed_of_decode hd) with
    ⟨-, -, ⟨e, he⟩, hwaits⟩ | ⟨c, p, hc, hl, hnone, hp, hemits⟩ | ⟨hend, hcompletes⟩
  · exact ⟨s, hwaits, by simp [coreEnabled, he]⟩
  · refine ⟨_, hemits, ?_⟩
    have ht : tracedInFlight s = true := (tracedInFlight_iff hd).mpr ⟨c, hc, hl⟩
    have ht' : tracedInFlight (emitEvent c p s) = true := by
      rwa [tracedInFlight_congr (s := s) (by simp) (by simp)]
    obtain ⟨-, -, htraced⟩ := (inFlightInv_traced hc hl).mp hf
    have hlt := emitted_lt_of_row hp
    have hsome : (emitEvent c p s).tq.isSome = true := by
      rw [emitEvent_tq htraced hp, List.getElem?_eq_getElem (by rwa [traceEvents_length])]
      rfl
    rw [remaining_traced hb ht, remaining_traced (by simpa using hb) ht', emitted_emitEvent, hsome]
    simp only [coreEnabled, hb, hnone, Option.isNone_none, Option.isSome_none, Bool.and_self, Bool.toNat_true,
      Bool.toNat_false]
    omega
  · refine ⟨_, hcompletes, ?_⟩
    rw [remaining_idle (by simp [completed_frame])]
    by_cases ht : Traced i s
    · rw [remaining_traced hb ((tracedInFlight_iff hd).mpr ht)]
      obtain ⟨c, hc, hl⟩ := ht
      obtain ⟨hnone, hrow⟩ := hend c hc hl
      have hseq := stepTable_get_eq_none_iff.mp hrow
      have hout : 80 - emitted s = 0 := by
        unfold emitted
        omega
      simp [coreEnabled, hb, hnone, hout]
    · rw [remaining_untraced hb (tracedInFlight_eq_false hd ht)]
      obtain ⟨-, -, hnone, -⟩ := (inFlightInv_untraced ht).mp hf
      simp [coreEnabled, hb, hnone]

/-- Only a traced command has an event in TQ; its acceptance is one step of the way. -/
theorem sinkAccept_remaining :
    remaining (sinkAccept s) + (sinkEnabled s).toNat = remaining s ∧ (sinkAccept s).busy = true := by
  cases ht : s.tq with
  | none => simp [sinkAccept_none ht, sinkEnabled, ht, hb]
  | some e =>
    rw [sinkAccept_some ht]
    refine ⟨?_, hb⟩
    have htraced : Traced i s := by
      by_contra hn
      obtain ⟨-, -, hnone, -⟩ := (inFlightInv_untraced hn).mp hf
      simp [ht] at hnone
    have hin := (tracedInFlight_iff hd).mpr htraced
    rw [remaining_traced hb hin, remaining_traced (s := { s with tq := none, delivered := s.delivered ++ [e] }) hb hin]
    simp [sinkEnabled, ht, emitted]

end InFlight

/-- A bus transaction at BUSY = 1 takes the command neither nearer nor further. -/
theorem runMove_bus_remaining {m : Move} (hm : IsBus m) {s : State} (hb : s.busy = true) :
    ∃ t, runMove m s = .next t ∧ remaining t = remaining s ∧ t.busy = true := by
  obtain ⟨t, ht⟩ := runMove_next_of_ne_core hm.1 s
  obtain ⟨hbusy, hlc, hl, hq, htq, hx, -⟩ := (runMove_does ht).bus_busy hm hb
  exact ⟨t, ht, remaining_congr (hbusy.trans hb.symm) hlc hl hq htq hx, hbusy⟩

/-- Settles O31: one lemma for each agent. -/
theorem everyCommandCountsDownToCompletion : Obligations.EveryCommandCountsDownToCompletion := by
  unfold Obligations.EveryCommandCountsDownToCompletion
  intro s hi hb
  obtain ⟨i, hd, hf⟩ := hi.busy_inFlight hb
  obtain ⟨hpos, hle⟩ := remaining_bounds hb hd hf
  refine ⟨?_, hpos, hle, coreMove_remaining hb hd hf, ⟨_, rfl, sinkAccept_remaining hb hd hf⟩, fun off n => ?_,
    fun off n d => ?_⟩
  · simp [coreEnabled, sinkEnabled, hb]
  · exact runMove_bus_remaining (by simp [IsBus]) hb
  · exact runMove_bus_remaining (by simp [IsBus]) hb

/-! ### A waiting event -/

/-- A traced command whose event waits in TQ. -/
def Waits (e : TraceEvent) (s : State) : Prop := s.busy = true ∧ tracedInFlight s = true ∧ s.tq = some e

theorem coreMove_waits {s : State} {e : TraceEvent} (h : Waits e s) : coreMove s = .next s := by
  obtain ⟨hb, htraced, ht⟩ := h
  cases hd : decode s.lcmd with
  | error _ => simp [tracedInFlight, hd] at htraced
  | ok i =>
    obtain ⟨c, hc, hl⟩ := (tracedInFlight_iff hd).mp htraced
    rw [coreMove_busy hb hd, exec_waits hb hc hl ht]

/-- A move of the core or of the host leaves a waiting command waiting. -/
theorem runMove_waits {s : State} {e : TraceEvent} (h : Waits e s) {m : Move} (hsink : m ≠ .sink)
    (hreset : m ≠ .reset) :
    ∃ t, runMove m s = .next t ∧ Waits e t ∧ (s.done = false → t.done = false) ∧ t.delivered = s.delivered ∧
      t.moves = s.moves := by
  by_cases hcore : m = .core
  · subst hcore
    exact ⟨s, coreMove_waits h, h, id, rfl, rfl⟩
  · obtain ⟨hb, htraced, htq⟩ := h
    obtain ⟨t, ht⟩ := runMove_next_of_ne_core hcore s
    obtain ⟨hbusy, hlc, hl, -, hq, -, hdel, hmoves, hdone⟩ := (runMove_does ht).bus_busy ⟨hcore, hsink, hreset⟩ hb
    exact ⟨t, ht, ⟨hbusy, by rwa [tracedInFlight_congr hlc hl], by rw [hq, htq]⟩, hdone, hdel, hmoves⟩

theorem step_waits {s : State} {e : TraceEvent} (h : Waits e s) (hsink : .sink ∉ s.moves) (hreset : .reset ∉ s.moves) :
    ∃ t, step s = .next t ∧ Waits e t ∧ (s.done = false → t.done = false) ∧ t.delivered = s.delivered ∧
      t.moves = s.moves.tail := by
  cases hm : s.moves with
  | nil => exact ⟨s, by rw [step_nil hm, coreMove_waits h], h, id, rfl, hm⟩
  | cons m rest =>
    rw [hm] at hsink hreset
    rw [step_cons hm]
    exact runMove_waits (s := { s with moves := rest }) h (fun hm => hsink (hm ▸ List.mem_cons_self))
      fun hm => hreset (hm ▸ List.mem_cons_self)

/-- Settles O30, by induction on the number of steps. -/
theorem onlyTheSinkOrResetEndsTheWait : Obligations.OnlyTheSinkOrResetEndsTheWait := by
  unfold Obligations.OnlyTheSinkOrResetEndsTheWait
  intro n
  induction n with
  | zero => exact fun s e hb _ htq _ _ => ⟨s, rfl, hb, id, htq, rfl⟩
  | succ n ih =>
    intro s e hb htraced htq hsink hreset
    obtain ⟨t, hstep, ⟨hb', htraced', htq'⟩, hdone, hdel, hmoves⟩ := step_waits ⟨hb, htraced, htq⟩ hsink hreset
    have hsink' : .sink ∉ t.moves := fun h => hsink (List.mem_of_mem_tail (hmoves ▸ h))
    have hreset' : .reset ∉ t.moves := fun h => hreset (List.mem_of_mem_tail (hmoves ▸ h))
    obtain ⟨u, hrun, hbu, hdu, hqu, hdelu⟩ := ih t e hb' htraced' htq' hsink' hreset'
    exact ⟨u, by rw [runSteps_succ hstep, hrun], hbu, hdu ∘ hdone, hqu, hdelu.trans hdel⟩

end Sys2Proof.Machine
end

section
/-!
The lanes of an aligned access to a data window all lie in that window (20_memory.md R53, R55), whose registers start on
16-byte boundaries.
-/

namespace Sys2Proof.Machine

/-- From 0x010 on, the 16 bytes of a register belong together (20_memory.md R52). -/
theorem regionOf_congr {a b : Offset} (h : 0x010 ≤ a.toNat) (hab : b.toNat / 16 = a.toNat / 16) :
    regionOf b = regionOf a := by
  have bound (c : Nat) (hc : c % 16 = 0) : b.toNat < c ↔ a.toNat < c := by omega
  unfold regionOf
  simp only [bound 0x010 rfl, bound 0x020 rfl, bound 0x030 rfl, bound 0x040 rfl, bound 0x050 rfl, bound 0x060 rfl,
    bound 0x100 rfl, bound 0x1B0 rfl, hab, if_neg (Nat.not_lt.mpr h)]

/-- An aligned access stays within 16 bytes: 1, 2 and 4 divide 16. -/
theorem lane_div_mod {off : Offset} {n : Size} {k : Nat} (ha : off.toNat % n.bytes = 0) (hk : k < n.bytes) :
    (off + BitVec.ofNat 12 k).toNat = off.toNat + k ∧ (off.toNat + k) / 16 = off.toNat / 16 := by
  have hlt := off.isLt
  have hbound : off.toNat + k < 4096 ∧ (off.toNat + k) / 16 = off.toNat / 16 := by
    cases n <;> simp only [Size.bytes] at ha hk <;> omega
  exact ⟨toNat_offset_add hbound.1, hbound.2⟩

theorem regionOf_lane {off : Offset} {n : Size} {k : Nat} (ha : off.toNat % n.bytes = 0) (hk : k < n.bytes)
    (h : 0x010 ≤ off.toNat) : regionOf (off + BitVec.ofNat 12 k) = regionOf off := by
  obtain ⟨hval, hdiv⟩ := lane_div_mod ha hk
  exact regionOf_congr h (by rw [hval, hdiv])

/-- A packed word depends on its lanes alone. -/
theorem packLanes_congr {f g : Nat → Byte} {n : Size} (h : ∀ k < n.bytes, f k = g k) :
    packLanes f n = packLanes g n := by
  cases n <;> simp only [packLanes, Size.bytes] at h ⊢
  · rw [h 0 (by decide)]
  · rw [h 0 (by decide), h 1 (by decide)]
  · rw [h 0 (by decide), h 1 (by decide), h 2 (by decide), h 3 (by decide)]

theorem accessFails_eq_false_iff {off : Offset} {n : Size} :
    accessFails off n = false ↔
      off.toNat % n.bytes = 0 ∧ regionOf off ≠ .reserved ∧ ((regionOf off).isControl = true → n = .b4) := by
  simp only [accessFails, Bool.or_eq_false_iff, bne_eq_false_iff_eq, beq_eq_false_iff_ne, Bool.and_eq_false_imp,
    and_assoc]

end Sys2Proof.Machine
end

section
/-!
While SV = 0 the contents of the RK store do not matter (70_reset_and_hazards.md R292): each operation of a step, run on
a state with another RK, gives the same state with another RK, and the same RK once SV is 1.
-/

namespace Sys2Proof.Machine

/-- The state with other contents of the RK store. -/
def withRk (x : Schedule) (s : State) : State := { s with rk := x }

/-- Two outcomes that differ in RK alone, and not even there if SV = 1 after the step. -/
def RkUnseen (o o' : Host.Outcome State Fault Refusal) : Prop :=
  ∃ (t : State) (y : Schedule), o = .next t ∧ o' = .next (withRk y t) ∧ (t.sv = true → y = t.rk)

theorem RkUnseen.of_sv {t : State} (h : t.sv = false) (x : Schedule) : RkUnseen (.next t) (.next (withRk x t)) :=
  ⟨t, x, rfl, rfl, fun hs => by simp [h] at hs⟩

/-! ### Reads -/

theorem storedByte_withRk {s : State} {off : Offset} (h : ∀ i, regionOf off ≠ .rkWindow i) (x : Schedule) :
    storedByte (withRk x s) off = storedByte s off := by
  unfold storedByte
  cases hr : regionOf off with
  | rkWindow i => exact absurd hr (h i)
  | _ => rfl

/-- While SV = 0 a read of the RK window is a free draw, and no other read looks at RK. -/
theorem readLane_withRk {s : State} (hsv : s.sv = false) {off : Offset} {n : Size} {k : Nat}
    (ha : off.toNat % n.bytes = 0) (hk : k < n.bytes) (h : 0x010 ≤ off.toNat) (x : Schedule) :
    readLane (withRk x s) off k = readLane s off k := by
  have hfree : readsFree (withRk x s) (regionOf off) = readsFree s (regionOf off) := by
    cases regionOf off <;> rfl
  unfold readLane
  rw [hfree]
  cases hf : readsFree s (regionOf off) with
  | true => simp only [if_true, withRk]
  | false =>
    have hrk : ∀ i, regionOf (off + BitVec.ofNat 12 k) ≠ .rkWindow i := by
      intro i hi
      rw [regionOf_lane ha hk h] at hi
      simp [hi, readsFree, hsv] at hf
    simp only [storedByte_withRk hrk, Bool.false_eq_true, if_false]

theorem readData_withRk {s : State} (hsv : s.sv = false) {off : Offset} {n : Size} (ha : off.toNat % n.bytes = 0)
    (x : Schedule) : readData (withRk x s) off n = readData s off n := by
  have hlanes : 0x010 ≤ off.toNat → packLanes (readLane (withRk x s) off) n = packLanes (readLane s off) n :=
    fun h => packLanes_congr fun k hk => readLane_withRk hsv ha hk h x
  have hdata : (regionOf off).isControl = false → 0x010 ≤ off.toNat := fun h => by
    by_contra hlt
    simp [isControl_iff.mpr (Nat.lt_of_not_le hlt)] at h
  unfold readData
  cases hr : regionOf off with
  | cmd | config | status | gf => rfl
  | _ => exact hlanes (hdata (by rw [hr]; rfl))

theorem busRead_withRk {s : State} (hsv : s.sv = false) (off : Offset) (n : Size) (x : Schedule) :
    busRead off n (withRk x s) = withRk x (busRead off n s) := by
  have hdraws : drawsOf (withRk x s) off n = drawsOf s off n := by
    unfold drawsOf
    cases regionOf off <;> rfl
  unfold busRead
  cases hf : accessFails off n with
  | true => rfl
  | false =>
    obtain ⟨ha, -⟩ := accessFails_eq_false_iff.mp hf
    rw [readData_withRk hsv ha, hdraws]
    rfl

/-! ### Writes -/

theorem storeRegister_withRk (off : Offset) (n : Size) (data : Word) (s : State) (x : Schedule) :
    storeRegister off n data (withRk x s) = withRk x (storeRegister off n data s) := by
  unfold storeRegister
  cases regionOf off with
  | status => simp only [writeStatus_eq, withRk]
  | _ => rfl

@[simp] theorem storeRegister_frame (off : Offset) (n : Size) (data : Word) (s : State) :
    (storeRegister off n data s).busy = s.busy ∧ (storeRegister off n data s).sv = s.sv ∧
    (storeRegister off n data s).replies = s.replies ∧ (storeRegister off n data s).moves = s.moves := by
  unfold storeRegister
  cases regionOf off with
  | status => simp only [writeStatus_eq, and_self]
  | _ => exact ⟨rfl, rfl, rfl, rfl⟩

/-- A write of CMD, GF, KEY or DIN that does not fail comes at BUSY = 0 (20_memory.md R60). -/
theorem idle_of_locked {off : Offset} {n : Size} {s : State} (h : writeFails off n s = false)
    (hl : (regionOf off).isLocked = true) : s.busy = false := by
  simp only [writeFails, hl, Bool.and_true, Bool.or_eq_false_iff] at h
  exact h.2

/-- The schedule of a command that does not need the stored one is expand(KEY), if it uses one at all. -/
theorem acceptScratch_withRk {i : Instr} (h : needsSched i = false) (s : State) (x : Schedule) :
    acceptScratch i (withRk x s) = acceptScratch i s := by
  cases i with
  | encryptRk _ | decryptRk _ | addRoundKey _ => cases h
  | _ => rfl

theorem accept_withRk {i : Instr} (h : needsSched i = false) (s : State) (x : Schedule) :
    accept i (withRk x s) = withRk x (accept i s) := by
  unfold accept
  rw [acceptScratch_withRk h]
  rfl

theorem needsSched_of_sv {i : Instr} (h : commandError i false = none) : needsSched i = false := by
  obtain ⟨-, -, -, hneeds⟩ := commandError_eq_none.mp h
  simpa using hneeds

theorem runWord_rkUnseen {s : State} (hb : s.busy = false) (hsv : s.sv = false) (w : Word) (x : Schedule) :
    RkUnseen (runWord w s) (runWord w (withRk x s)) := by
  cases hd : decode w with
  | error e =>
    rw [runWord_error hd, runWord_error hd]
    exact .of_sv (t := raiseCmdError .illegalCommand (clearOutcome s)) (by simpa using hsv) x
  | ok i =>
    rw [runWord_ok hd, runWord_ok hd, exec_idle hb, exec_idle (s := withRk x s) hb]
    rcases dispatchCommand_cases i s with ⟨code, hc, he⟩ | ⟨hc, he⟩
    · rw [he, dispatchCommand_error (s := withRk x s) hc]
      exact .of_sv (t := raiseCmdError code (clearOutcome s)) (by simpa using hsv) x
    · rw [he, dispatchCommand_accept (s := withRk x s) hc]
      have hneeds := needsSched_of_sv (hsv ▸ hc)
      have hcomm : accept i (clearOutcome (withRk x s)) = withRk x (accept i (clearOutcome s)) :=
        accept_withRk hneeds (clearOutcome s) x
      rw [hcomm]
      exact .of_sv (by simp [hsv]) x

theorem busWrite_rkUnseen {s : State} (hsv : s.sv = false) (off : Offset) (n : Size) (data : Word) (x : Schedule) :
    RkUnseen (busWrite off n data s) (busWrite off n data (withRk x s)) := by
  have hfails : writeFails off n (withRk x s) = writeFails off n s := rfl
  unfold busWrite
  rw [hfails, storeRegister_withRk]
  cases hf : writeFails off n s with
  | true => exact .of_sv (t := addReply replyError s) hsv x
  | false =>
    simp only [Bool.false_eq_true, if_false]
    split
    case isTrue hr =>
      have hb : s.busy = false := idle_of_locked hf (by rw [hr]; rfl)
      exact runWord_rkUnseen (s := addReply replyOkay (storeRegister off n data s)) (by simpa using hb)
        (by simpa using hsv) data x
    case isFalse => exact .of_sv (t := addReply replyOkay (storeRegister off n data s)) (by simpa using hsv) x

/-! ### The core -/

theorem emitEvent_withRk (c : Cipher) (p : PipeStep) (s : State) (x : Schedule) :
    emitEvent c p (withRk x s) = withRk x (emitEvent c p s) := by
  unfold emitEvent withRk
  cases s.scratch.ph <;> rfl

/-- A completion that writes the schedule leaves nothing of the old one; any other that may run leaves RK alone. -/
theorem completed_withRk {i : Instr} (h : needsSched i = false) (s : State) (x : Schedule) :
    completed i (withRk x s) = withRk (if writesSched i then expand s.key else x) (completed i s) := by
  cases i with
  | encryptRk _ | decryptRk _ | addRoundKey _ => cases h
  | _ => simp [completed, finishExpanded, complete, writeCipherResult, writeSchedule, withRk, writesSched]

theorem completed_rkUnseen {i : Instr} (h : needsSched i = false) {s : State} (hsv : s.sv = false) (x : Schedule) :
    RkUnseen (.next (completed i s)) (.next (completed i (withRk x s))) := by
  obtain ⟨hrk, hsv'⟩ := completed_schedule i s
  refine ⟨_, _, rfl, by rw [completed_withRk h], fun ht => ?_⟩
  rw [hrk]
  cases hw : writesSched i with
  | true => rfl
  | false => simp [hsv', hw, hsv] at ht

theorem exec_busy_rkUnseen {i : Instr} {s : State} (hb : s.busy = true) (hsv : s.sv = false) (hw : i.wellFormed = true)
    (hn : needsSched i = false) (x : Schedule) : RkUnseen (exec i s) (exec i (withRk x s)) := by
  rcases exec_busy_cases hb hw with ⟨⟨c, hc⟩, hl, ⟨e, he⟩, hwaits⟩ | ⟨c, p, hc, hl, ht, hp, hemits⟩ | ⟨hend, hcompletes⟩
  · rw [hwaits, exec_waits (s := withRk x s) hb hc hl he]
    exact .of_sv hsv x
  · rw [hemits, exec_emits (s := withRk x s) hb hc hl ht hp, emitEvent_withRk]
    exact .of_sv (by simpa using hsv) x
  · rw [hcompletes, exec_completes (s := withRk x s) hb hw]
    · exact completed_rkUnseen hn hsv x
    · intro c hc hl
      obtain ⟨ht, hrow⟩ := hend c hc hl
      exact ⟨ht, stepTable_get_eq_none_iff.mp hrow⟩

theorem Invariant.coreMove_rkUnseen {s : State} (hi : Invariant s) (hsv : s.sv = false) (x : Schedule) :
    RkUnseen (coreMove s) (coreMove (withRk x s)) := by
  cases hb : s.busy with
  | false =>
    rw [coreMove_idle hb, coreMove_idle (s := withRk x s) hb]
    exact .of_sv hsv x
  | true =>
    obtain ⟨i, hd, hc, -⟩ := hi.busy_inFlight hb
    rw [coreMove_busy hb hd, coreMove_busy (s := withRk x s) hb hd]
    exact exec_busy_rkUnseen hb hsv (wellFormed_of_decode hd) (needsSched_of_sv (hsv ▸ hc)) x

/-! ### Every agent -/

theorem sinkAccept_withRk (s : State) (x : Schedule) : sinkAccept (withRk x s) = withRk x (sinkAccept s) := by
  cases ht : s.tq with
  | none => rw [sinkAccept_none ht, sinkAccept_none (s := withRk x s) ht]
  | some e =>
    rw [sinkAccept_some ht, sinkAccept_some (s := withRk x s) ht]
    rfl

theorem sinkAccept_sv (s : State) : (sinkAccept s).sv = s.sv := by
  cases ht : s.tq with
  | none => rw [sinkAccept_none ht]
  | some e => rw [sinkAccept_some ht]

theorem Invariant.runMove_rkUnseen {s : State} (hi : Invariant s) (hsv : s.sv = false) (m : Move) (x : Schedule) :
    RkUnseen (runMove m s) (runMove m (withRk x s)) := by
  cases m with
  | busRead off n =>
    obtain ⟨r, d, hr⟩ := busRead_eq off n s
    rw [runMove, runMove, busRead_withRk hsv]
    exact .of_sv (by simpa [hr] using hsv) x
  | busWrite off n data => exact busWrite_rkUnseen hsv off n data x
  | core => exact hi.coreMove_rkUnseen hsv x
  | sink =>
    rw [runMove, runMove, sinkAccept_withRk]
    exact .of_sv (by rw [sinkAccept_sv, hsv]) x
  | reset => exact .of_sv (t := resetEvent s) rfl State.reset.rk

/-- Settles O57: a step is a move of one agent, none of which looks at RK. -/
theorem unwrittenScheduleIsNeverRead : Obligations.UnwrittenScheduleIsNeverRead := by
  unfold Obligations.UnwrittenScheduleIsNeverRead
  intro s t x hi hsv hstep
  have hunseen : RkUnseen (step s) (step (withRk x s)) := by
    cases hm : s.moves with
    | nil =>
      rw [step_nil hm, step_nil (s := withRk x s) hm]
      exact hi.coreMove_rkUnseen hsv x
    | cons m rest =>
      rw [step_cons hm, step_cons (s := withRk x s) hm]
      exact (hi.setMoves rest).runMove_rkUnseen hsv m x
  obtain ⟨u, y, hu, hy, hsame⟩ := hunseen
  rw [hstep] at hu
  cases hu
  exact ⟨y, hy, hsame⟩

end Sys2Proof.Machine
end

section
/-!
What a step can change: the inputs of a command are frozen while it runs (30_encoding.md R90), results are written only
by completions (10_state.md R30, R31), the schedule only by an expansion (R32), KEY and DIN only by the host (R28, R29).
-/

namespace Sys2Proof.Machine

/-- The step takes the move `m`: the next of the list, or the core's with none listed (log 2). -/
def NextMove (m : Move) (s : State) : Prop := s.moves.head? = some m ∨ (s.moves = [] ∧ m = .core)

theorem not_reset_of_nextMove {s : State} {m : Move} (h : NextMove m s) (hr : ¬resetNext s) : m ≠ .reset := by
  rintro rfl
  rcases h with h | ⟨-, h⟩
  · exact hr h
  · cases h

/-! ### Inputs -/

theorem MoveDoes.busy_inputs {m : Move} {s t : State} (h : MoveDoes m s t) (hr : m ≠ .reset) (hb : s.busy = true) :
    t.key = s.key ∧ t.din = s.din ∧ t.gfA = s.gfA ∧ t.gfB = s.gfB ∧ t.cmd = s.cmd ∧ t.lcmd = s.lcmd ∧
    t.lte = s.lte := by
  cases h with
  | cmdError _ _ _ hidle | accepted _ _ _ hidle | gf _ _ _ _ hidle | key _ _ _ _ hidle | din _ _ _ _ hidle
  | idle _ hidle =>
    simp [hb] at hidle
  | reset h => exact absurd h hr
  | completes i => simp [completed_frame]
  | _ => simp

/-- Every result: STATE, RK, DOUT, GF.P and SV. -/
theorem MoveDoes.still_busy_results {m : Move} {s t : State} (h : MoveDoes m s t) (hr : m ≠ .reset)
    (hb : s.busy = true) (ht : t.busy = true) :
    t.st = s.st ∧ t.rk = s.rk ∧ t.dout = s.dout ∧ t.gfP = s.gfP ∧ t.sv = s.sv := by
  cases h with
  | cmdError _ _ _ hidle | accepted _ _ _ hidle | gf _ _ _ _ hidle | key _ _ _ _ hidle | din _ _ _ _ hidle
  | idle _ hidle =>
    simp [hb] at hidle
  | reset h => exact absurd h hr
  | completes i => simp [completed_frame] at ht
  | _ => simp

/-- Settles O50: the inputs stay in every case of a move, the results in every case but the completion. -/
theorem inputsAreFrozenWhileBusy : Obligations.InputsAreFrozenWhileBusy := by
  unfold Obligations.InputsAreFrozenWhileBusy
  intro s t hb hr hstep
  obtain ⟨m, hm, hdoes⟩ := step_does hstep
  have hne := not_reset_of_nextMove hm hr
  obtain ⟨hkey, hdin, ha, hB, hcmd, hlcmd, hlte⟩ := hdoes.busy_inputs hne hb
  exact ⟨hkey, hdin, ha, hB, hcmd, hlcmd, hlte, hdoes.still_busy_results hne hb⟩

/-! ### Results -/

/-- The step from `s` to `t` is the completion of the command `i`. -/
def Completes (i : Instr) (s t : State) : Prop :=
  s.busy = true ∧ decode s.lcmd = .ok i ∧ t = completed i s

/-- A move that is no reset leaves DOUT, STATE and GF.P alone, unless it completes a command. -/
theorem MoveDoes.results {m : Move} {s t : State} (h : MoveDoes m s t) (hr : m ≠ .reset) :
    (t.dout = s.dout ∧ t.st = s.st ∧ t.gfP = s.gfP) ∨ ∃ i, Completes i s t := by
  cases h with
  | completes i _ hb hd => exact .inr ⟨i, hb, hd, rfl⟩
  | reset h => exact absurd h hr
  | _ => exact .inl (by simp)

/-- Which completions write DOUT, STATE and GF.P (30_encoding.md R91), by the OP values. -/
theorem completed_results (i : Instr) (s : State) :
    ((completed i s).dout ≠ s.dout → i.fields.op ∈ [0x1#4, 0x2#4, 0x4#4, 0x5#4, 0x8#4]) ∧
    ((completed i s).st ≠ s.st →
      i.fields.op ∈ [0x1#4, 0x2#4, 0x4#4, 0x5#4, 0x7#4, 0x9#4, 0xA#4, 0xB#4, 0xC#4]) ∧
    ((completed i s).gfP ≠ s.gfP → i = .gfMul) := by
  cases i <;> simp [completed, finishExpanded, finishStored, Instr.fields]

/-- Settles O51: a step that changes a result is a completion, and of a command that writes that result. -/
theorem resultsAreWrittenOnlyByCompletions : Obligations.ResultsAreWrittenOnlyByCompletions := by
  unfold Obligations.ResultsAreWrittenOnlyByCompletions
  intro s t hr hstep
  obtain ⟨m, hm, hdoes⟩ := step_does hstep
  rcases hdoes.results (not_reset_of_nextMove hm hr) with ⟨hdout, hst, hgfP⟩ | ⟨i, hb, hd, rfl⟩
  · exact ⟨fun h => absurd hdout h, fun h => absurd hst h, fun h => absurd hgfP h⟩
  · obtain ⟨hdout, hst, hgfP⟩ := completed_results i { s with moves := s.moves.tail }
    have ⟨hbusy, hdone⟩ :
        (completed i { s with moves := s.moves.tail }).busy = false ∧
        (completed i { s with moves := s.moves.tail }).done = true := by
      simp [completed_frame]
    exact ⟨fun h => ⟨hb, hbusy, hdone, i, hd, hdout h⟩, fun h => ⟨hb, hbusy, hdone, i, hd, hst h⟩,
      fun h => ⟨hb, hbusy, hdone, hgfP h ▸ hd⟩⟩

/-! ### The schedule -/

/-- A move that is no reset leaves RK and SV alone, unless it completes or accepts a command that writes RK. -/
theorem MoveDoes.schedule {m : Move} {s t : State} (h : MoveDoes m s t) (hr : m ≠ .reset) :
    (t.rk = s.rk ∧ t.sv = s.sv) ∨ (∃ i, writesSched i = true ∧ Completes i s t) ∨
      (s.busy = false ∧ t.busy = true ∧ t.rk = s.rk ∧ t.sv = false ∧
        ∃ i, writesSched i = true ∧ decode t.lcmd = .ok i) := by
  cases h with
  | accepted w i _ hb hd _ =>
    cases hw : writesSched i with
    | false => exact .inl (by simp [hw])
    | true => exact .inr (.inr ⟨hb, by simp, by simp, by simp [hw], i, hw, by simpa [encode_of_decode hd] using hd⟩)
  | completes i _ hb hd =>
    cases hw : writesSched i with
    | false => exact .inl (by simp [completed_schedule, hw])
    | true => exact .inr (.inl ⟨i, hw, hb, hd, rfl⟩)
  | reset h => exact absurd h hr
  | _ => exact .inl (by simp)

/-- Settles O52: the completion of an expanding command writes expand(KEY) and sets SV, its acceptance clears SV. -/
theorem scheduleIsWrittenOnlyByExpansion : Obligations.ScheduleIsWrittenOnlyByExpansion := by
  unfold Obligations.ScheduleIsWrittenOnlyByExpansion
  intro s t hr hstep
  obtain ⟨m, hm, hdoes⟩ := step_does hstep
  rcases hdoes.schedule (not_reset_of_nextMove hm hr) with
    ⟨hrk, hsv⟩ | ⟨i, hw, hb, hd, rfl⟩ | ⟨hb, hb', hrk, hsv, i, hw, hd⟩
  · refine ⟨fun h => ?_, fun h => ?_⟩ <;> simp_all
  · obtain ⟨hrk, hsv⟩ := completed_schedule i { s with moves := s.moves.tail }
    rw [if_pos hw] at hrk hsv
    refine ⟨fun _ => ⟨hb, ?_, hrk, hsv, i, hd, (writesSched_iff_op i).mp hw⟩, fun h => ?_⟩
    · simp [completed_frame]
    · simp [hsv] at h
  · refine ⟨fun h => ?_, fun _ => ⟨hb, hb', i, hd, (writesSched_iff_op i).mp hw⟩⟩
    rcases h with h | ⟨-, h⟩
    · exact absurd hrk h
    · simp [hsv] at h

/-! ### KEY and DIN -/

/-- KEY and DIN are written only by writes to their windows. -/
theorem MoveDoes.keyDin {m : Move} {s t : State} (h : MoveDoes m s t) (hr : m ≠ .reset) :
    (t.key = s.key ∨ (s.busy = false ∧ ∃ off n d, m = .busWrite off n d ∧ regionOf off = .key)) ∧
    (t.din = s.din ∨ (s.busy = false ∧ ∃ off n d, m = .busWrite off n d ∧ regionOf off = .din)) := by
  cases h with
  | key off n x hm hb hreg => exact ⟨.inr ⟨hb, off, n, x, hm, hreg⟩, .inl (by simp)⟩
  | din off n x hm hb hreg => exact ⟨.inl (by simp), .inr ⟨hb, off, n, x, hm, hreg⟩⟩
  | completes i => simp [completed_frame]
  | reset h => exact absurd h hr
  | _ => simp

/-- Settles O53: the window of each register, by offset. -/
theorem keyAndDinAreWrittenOnlyByTheHost : Obligations.KeyAndDinAreWrittenOnlyByTheHost := by
  unfold Obligations.KeyAndDinAreWrittenOnlyByTheHost
  intro s t hr hstep
  obtain ⟨m, hm, hdoes⟩ := step_does hstep
  have listed {off : Offset} {n : Size} {d : Word} (h : m = .busWrite off n d) :
      s.moves.head? = some (.busWrite off n d) := by
    subst h
    exact hm.resolve_right (by simp)
  obtain ⟨hkey, hdin⟩ := hdoes.keyDin (not_reset_of_nextMove hm hr)
  constructor
  · intro h
    obtain ⟨hb, off, n, d, hw, hreg⟩ := hkey.resolve_left h
    exact ⟨hb, off, n, d, listed hw, regionOf_eq_key.mp hreg⟩
  · intro h
    obtain ⟨hb, off, n, d, hw, hreg⟩ := hdin.resolve_left h
    exact ⟨hb, off, n, d, listed hw, regionOf_eq_din.mp hreg⟩

end Sys2Proof.Machine
end

section
/-!
Bus reads: which fail (60_exceptions.md R267, R268), what the data windows and the control registers read as, and the
free draws (20_memory.md R53, R59; 70_reset_and_hazards.md R292).
-/

namespace Sys2Proof.Machine

/-! ### Which reads fail -/

/-- R267 for an access of either kind, by the offsets of 20_memory.md R52. -/
theorem accessFails_iff {off : Offset} {n : Size} :
    accessFails off n = true ↔
      off.toNat % n.bytes ≠ 0 ∨
        (0x010 ≤ off.toNat ∧ off.toNat < 0x020) ∨ (0x060 ≤ off.toNat ∧ off.toNat < 0x100) ∨ 0x1B0 ≤ off.toNat ∨
        (off.toNat < 0x010 ∧ n ≠ .b4) := by
  simp only [accessFails, Bool.or_eq_true, bne_iff_ne, beq_iff_eq, Bool.and_eq_true, regionOf_eq_reserved,
    isControl_iff, or_assoc]

theorem step_busRead {s : State} {off : Offset} {n : Size} {rest : List Move} (hm : s.moves = .busRead off n :: rest) :
    step s = .next (busRead off n { s with moves := rest }) := by
  rw [step_cons hm, runMove]

theorem step_busRead_okay {s : State} {off : Offset} {n : Size} {rest : List Move}
    (hm : s.moves = .busRead off n :: rest) (hf : accessFails off n = false) :
    step s = .next { s with
      moves := rest, draws := s.draws + drawsOf s off n, replies := s.replies ++ [⟨.okay, readData s off n⟩] } := by
  rw [step_busRead hm, busRead, hf]
  rfl

/-- Settles O43: R267's causes are those of `accessFails`. -/
theorem busReadsFailExactlyAsListed : Obligations.BusReadsFailExactlyAsListed := by
  unfold Obligations.BusReadsFailExactlyAsListed
  intro s off n rest hm
  rw [← accessFails_iff]
  refine ⟨fun hf => ?_, fun hf => ⟨_, _, step_busRead_okay hm (by simpa using hf)⟩⟩
  rw [step_busRead hm, busRead, if_pos hf]
  rfl

/-! ### Data windows -/

/-- An aligned access to a data window does not fail. -/
theorem accessFails_dataWindow {off : Offset} {n : Size} (ha : off.toNat % n.bytes = 0)
    (hw : 0x020 ≤ off.toNat ∧ off.toNat < 0x060 ∨ 0x100 ≤ off.toNat ∧ off.toNat < 0x1B0) :
    accessFails off n = false := by
  rw [← Bool.not_eq_true, accessFails_iff]
  omega

theorem readData_dataWindow {off : Offset} (h : 0x010 ≤ off.toNat) (s : State) (n : Size) :
    readData s off n = packLanes (readLane s off) n := by
  have hdata : (regionOf off).isControl = false := by
    rw [← Bool.not_eq_true, isControl_iff]
    omega
  unfold readData
  cases hr : regionOf off with
  | cmd | config | status | gf => simp [hr, Region.isControl] at hdata
  | _ => rfl

/-- The position of a lane in its 16-byte register. -/
theorem indexIn_lane {off : Offset} {n : Size} {k base : Nat} {j : Fin 16} (ha : off.toNat % n.bytes = 0)
    (hk : k < n.bytes) (hbase : base % 16 = 0) (hj : off.toNat + k = base + j.val) :
    indexIn (off + BitVec.ofNat 12 k) = j := by
  obtain ⟨hval, -⟩ := lane_div_mod ha hk
  apply Fin.ext
  simp only [indexIn, hval, hj]
  omega

/-- A lane whose region reads as the block `b` carries the byte of its position. -/
theorem laneByte_readData_stored {s : State} {off : Offset} {n : Size} {k base : Nat} {j : Fin 16} {b : Block}
    {r : Region} (ha : off.toNat % n.bytes = 0) (hk : k < n.bytes) (h : 0x010 ≤ off.toNat)
    (hr : regionOf (off + BitVec.ofNat 12 k) = r) (hfree : readsFree s r = false)
    (hstored : ∀ o, regionOf o = r → storedByte s o = some b[indexIn o]) (hbase : base % 16 = 0)
    (hj : off.toNat + k = base + j.val) : laneByte (readData s off n) k = b[j] := by
  rw [readData_dataWindow h, laneByte_packLanes _ _ _ hk, readLane, ← regionOf_lane ha hk h, hr, hfree, hstored _ hr]
  simp only [indexIn_lane ha hk hbase hj, Bool.false_eq_true, if_false, Option.getD_some]

/-- A lane of a free read is a fresh byte. -/
theorem laneByte_readData_free {s : State} {off : Offset} {n : Size} {k : Nat} (hk : k < n.bytes)
    (h : 0x010 ≤ off.toNat) (hfree : readsFree s (regionOf off) = true) :
    laneByte (readData s off n) k = Config.freeByte (s.draws + k) := by
  rw [readData_dataWindow h, laneByte_packLanes _ _ _ hk, readLane, if_pos hfree]

/-- Settles O45: each lane lies in the region of its own offset, whose stored byte it carries. -/
theorem dataWindowReadsReturnTheStoredBytes : Obligations.DataWindowReadsReturnTheStoredBytes := by
  unfold Obligations.DataWindowReadsReturnTheStoredBytes
  intro s off n rest hm ha hw
  refine ⟨_, _, step_busRead_okay hm (accessFails_dataWindow ha hw), fun k hk j => ?_⟩
  have hlow : 0x010 ≤ off.toNat := by omega
  obtain ⟨hval, -⟩ := lane_div_mod ha hk
  have hj := j.isLt
  refine ⟨fun h => ?_, fun h => ?_, fun h => ?_, fun hb h => ?_, fun hb hsv i h => ?_⟩
  · exact laneByte_readData_stored ha hk hlow (regionOf_eq_key.mpr (by omega)) rfl
      (fun o ho => by rw [storedByte, ho]) rfl h
  · exact laneByte_readData_stored ha hk hlow (regionOf_eq_din.mpr (by omega)) rfl
      (fun o ho => by rw [storedByte, ho]) rfl h
  · exact laneByte_readData_stored ha hk hlow (regionOf_eq_dout.mpr (by omega)) rfl
      (fun o ho => by rw [storedByte, ho]) rfl h
  · exact laneByte_readData_stored ha hk hlow (regionOf_eq_stateWindow.mpr (by omega)) hb
      (fun o ho => by rw [storedByte, ho]) rfl h
  · exact laneByte_readData_stored ha hk hlow (regionOf_eq_rkWindow (i := i).mpr (by omega))
      (by simp [readsFree, hb, hsv]) (fun o ho => by rw [storedByte, ho]) (by omega) h

theorem readsFree_stateWindow {s : State} {off : Offset} (h : 0x050 ≤ off.toNat ∧ off.toNat < 0x060) :
    readsFree s (regionOf off) = s.busy := by
  rw [regionOf_eq_stateWindow.mpr h, readsFree]

theorem readsFree_rkWindow {s : State} {off : Offset} (h : 0x100 ≤ off.toNat ∧ off.toNat < 0x1B0) :
    readsFree s (regionOf off) = (s.busy || !s.sv) := by
  have hr : regionOf off = .rkWindow ⟨off.toNat / 16 - 16, by omega⟩ := regionOf_eq_rkWindow.mpr (by simp only; omega)
  rw [hr, readsFree]

/-- Settles O46: the read is free, so each lane draws the next free byte and the count goes up by the lanes. -/
theorem unspecifiedReadsDrawFreshBytes : Obligations.UnspecifiedReadsDrawFreshBytes := by
  unfold Obligations.UnspecifiedReadsDrawFreshBytes
  intro s off n rest hm ha hw
  have hfree : readsFree s (regionOf off) = true := by
    rcases hw with ⟨hlo, hhi, hb⟩ | ⟨hlo, hhi, h⟩
    · rw [readsFree_stateWindow ⟨hlo, hhi⟩, hb]
    · rw [readsFree_rkWindow ⟨hlo, hhi⟩]
      simpa using h
  have hf : accessFails off n = false := accessFails_dataWindow ha (by omega)
  refine ⟨readData s off n, ?_, fun k hk => laneByte_readData_free hk (by omega) hfree⟩
  rw [step_busRead_okay hm hf, drawsOf, if_pos hfree]

/-! ### Control registers -/

/-- The value of a concatenation, the high part first. -/
theorem toNat_append_add {m n : Nat} (x : BitVec m) (y : BitVec n) : (x ++ y).toNat = x.toNat * 2 ^ n + y.toNat := by
  rw [BitVec.toNat_append, ← Nat.shiftLeft_add_eq_or_of_lt y.isLt, Nat.shiftLeft_eq]

theorem configWord_toNat (s : State) : s.configWord.toNat = s.ie.toNat + 2 * s.te.toNat := by
  simp only [State.configWord, toNat_append_add, BitVec.toNat_ofBool, BitVec.toNat_ofNat]
  omega

theorem statusWord_toNat (s : State) :
    s.statusWord.toNat = s.busy.toNat + 2 * s.done.toNat + 4 * s.err.toNat + 8 * s.sv.toNat
      + 16 * s.errcode.bits.toNat + 256 * s.irq.toNat := by
  simp only [State.statusWord, toNat_append_add, BitVec.toNat_ofBool, BitVec.toNat_ofNat]
  omega

theorem gfWord_toNat (s : State) : s.gfWord.toNat = s.gfA.toNat + 256 * s.gfB.toNat + 65536 * s.gfP.toNat := by
  simp only [State.gfWord, toNat_append_add, BitVec.toNat_ofNat]
  omega

/-- A word read of a control register draws nothing. -/
theorem step_controlRead {s : State} {off : Offset} {rest : List Move} (hm : s.moves = .busRead off .b4 :: rest)
    (hf : accessFails off .b4 = false) (hc : (regionOf off).isControl = true) :
    step s = .next { s with moves := rest, replies := s.replies ++ [⟨.okay, readData s off .b4⟩] } := by
  have hdraws : drawsOf s off .b4 = 0 := by
    unfold drawsOf
    cases hr : regionOf off with
    | cmd | config | status | gf => rfl
    | _ => simp [hr, Region.isControl] at hc
  rw [step_busRead_okay hm hf, hdraws]
  rfl

/-- Settles O47: the value of each control word, field by field. -/
theorem controlRegisterReads : Obligations.ControlRegisterReads := by
  unfold Obligations.ControlRegisterReads
  intro s rest
  refine ⟨fun hm => step_controlRead hm (by decide) (by decide),
    fun hm => ⟨s.configWord, step_controlRead hm (by decide) (by decide), configWord_toNat s⟩,
    fun hm => ⟨s.statusWord, step_controlRead hm (by decide) (by decide), ?_⟩,
    fun hm => ⟨s.gfWord, step_controlRead hm (by decide) (by decide), gfWord_toNat s⟩⟩
  rw [statusWord_toNat]
  cases s.errcode <;> rfl

end Sys2Proof.Machine
end

section
/-!
Bus writes: which fail (60_exceptions.md R267, R268), what the others store (20_memory.md R53, R61), and what they make
of the interrupt level (60_exceptions.md R269, R270).
-/

namespace Sys2Proof.Machine

/-! ### Which writes fail -/

/-- R267 for a write: the causes of `accessFails`, a read-only window, or a locked register at BUSY = 1. -/
theorem writeFails_iff {off : Offset} {n : Size} {s : State} :
    writeFails off n s = true ↔
      accessFails off n = true ∨
        ((0x040 ≤ off.toNat ∧ off.toNat < 0x060) ∨ (0x100 ≤ off.toNat ∧ off.toNat < 0x1B0)) ∨
        (s.busy = true ∧ (off.toNat < 0x004 ∨ (0x00C ≤ off.toNat ∧ off.toNat < 0x010) ∨
          (0x020 ≤ off.toNat ∧ off.toNat < 0x040))) := by
  simp only [writeFails, Bool.or_eq_true, Bool.and_eq_true, isReadOnly_iff, isLocked_iff, or_assoc]

section Writes

variable {s : State} {off : Offset} {n : Size} {data : Word} {rest : List Move}
  (hm : s.moves = .busWrite off n data :: rest)
include hm

theorem step_busWrite_fails (hf : writeFails off n s = true) :
    step s = .next { s with moves := rest, replies := s.replies ++ [⟨.slverr, 0#32⟩] } := by
  have hf' : writeFails off n { s with moves := rest } = true := hf
  rw [step_cons hm, runMove, busWrite, if_pos hf']
  rfl

/-- A write to another register than CMD stores, and that is all. -/
theorem step_busWrite_stores (hf : writeFails off n s = false) (hr : regionOf off ≠ .cmd) :
    step s = .next (addReply replyOkay (storeRegister off n data { s with moves := rest })) := by
  have hf' : ¬writeFails off n { s with moves := rest } = true := Bool.eq_false_iff.mp hf
  rw [step_cons hm, runMove, busWrite, if_neg hf', if_neg hr]

theorem step_busWrite_okay (hf : writeFails off n s = false) :
    ∃ t, step s = .next t ∧ t.replies = s.replies ++ [⟨.okay, 0#32⟩] ∧ t.moves = rest := by
  rw [step_cons hm, runMove]
  rcases busWrite_cases off n data { s with moves := rest } with ⟨hfails, -⟩ | ⟨-, -, hb, he⟩ | ⟨-, -, he⟩
  · exact absurd (hf.symm.trans hfails) (by simp)
  · rw [he]
    rcases runWord_cases (s := addReply replyOkay { s with moves := rest, cmd := data }) hb data with
      ⟨code, -, hw⟩ | ⟨i, -, -, hw⟩ <;>
    exact ⟨_, hw, by simp [replyOkay], by simp⟩
  · exact ⟨_, he, by simp [replyOkay], by simp⟩

end Writes

/-- Settles O44: the listed causes are those of `writeFails`, and no other write is refused. -/
theorem busWritesFailExactlyAsListed : Obligations.BusWritesFailExactlyAsListed := by
  unfold Obligations.BusWritesFailExactlyAsListed
  intro s off n data rest hm fails
  have hfails : writeFails off n s = true ↔ fails := by
    rw [writeFails_iff, accessFails_iff]
    simp only [fails, or_assoc]
  exact ⟨fun h => step_busWrite_fails hm (hfails.mpr h),
    fun h => step_busWrite_okay hm (Bool.eq_false_iff.mpr (mt hfails.mp h))⟩

/-! ### KEY and DIN -/

theorem writeBytes_get (b : Block) (j : Fin 16) (n : Size) (data : Word) (i : Fin 16) :
    (writeBytes b j n data)[i] =
      if j ≤ i ∧ i.val < j.val + n.bytes then laneByte data (i.val - j.val) else b[i] := by
  simp [writeBytes]

/-- In the window of a 16-byte register, a write stores its lanes and leaves the other bytes. -/
theorem writeBytes_lanes (b : Block) {off : Offset} (n : Size) (data : Word) {base : Nat} (hbase : base % 16 = 0)
    (hlo : base ≤ off.toNat) (hhi : off.toNat < base + 16) (i : Fin 16) :
    (∀ k < n.bytes, base + i.val = off.toNat + k → (writeBytes b (indexIn off) n data)[i] = laneByte data k) ∧
    (base + i.val < off.toNat ∨ off.toNat + n.bytes ≤ base + i.val →
      (writeBytes b (indexIn off) n data)[i] = b[i]) := by
  have hj : base + (indexIn off).val = off.toNat := by
    simp only [indexIn]
    omega
  rw [writeBytes_get]
  simp only [Fin.le_def]
  refine ⟨fun k hk hi => ?_, fun hi => if_neg (by omega)⟩
  rw [if_pos (by omega), show i.val - (indexIn off).val = k by omega]

/-- An aligned write to KEY or DIN at BUSY = 0 does not fail. -/
theorem writeFails_hostWindow {off : Offset} {n : Size} {s : State} (hb : s.busy = false)
    (ha : off.toNat % n.bytes = 0) (hlo : 0x020 ≤ off.toNat) (hhi : off.toNat < 0x040) :
    writeFails off n s = false := by
  rw [← Bool.not_eq_true, writeFails_iff, accessFails_iff, hb]
  simp only [Bool.false_eq_true, false_and, or_false]
  omega

/-- Settles O48: the register of the window takes the lanes. -/
theorem keyAndDinWritesStoreTheirLanes : Obligations.KeyAndDinWritesStoreTheirLanes := by
  unfold Obligations.KeyAndDinWritesStoreTheirLanes
  intro s off n data rest hm hb ha
  refine ⟨writeBytes (if off.toNat < 0x030 then s.key else s.din) (indexIn off) n data, fun ⟨hlo, hhi⟩ => ?_,
    fun ⟨hlo, hhi⟩ => ?_⟩
  · have hr : regionOf off = .key := regionOf_eq_key.mpr ⟨hlo, hhi⟩
    rw [if_pos hhi]
    refine ⟨?_, writeBytes_lanes s.key n data rfl hlo hhi⟩
    rw [step_busWrite_stores hm (writeFails_hostWindow hb ha hlo (by omega)) (by simp [hr]), storeRegister, hr]
    rfl
  · have hr : regionOf off = .din := regionOf_eq_din.mpr ⟨hlo, hhi⟩
    rw [if_neg (by omega)]
    refine ⟨?_, writeBytes_lanes s.din n data rfl hlo hhi⟩
    rw [step_busWrite_stores hm (writeFails_hostWindow hb ha (by omega) hhi) (by simp [hr]), storeRegister, hr]
    rfl

/-! ### Control registers -/

section Control

variable {s : State} {data : Word} {rest : List Move}

theorem step_configWrite (hm : s.moves = .busWrite 0x004#12 .b4 data :: rest) :
    step s = .next { s with
      moves := rest, ie := data.getLsbD 0, te := data.getLsbD 1, replies := s.replies ++ [⟨.okay, 0#32⟩] } := by
  have hf : writeFails 0x004#12 .b4 s = false := by
    rw [← Bool.not_eq_true, writeFails_iff]
    simp [accessFails_iff, Size.bytes]
  rw [step_busWrite_stores hm hf (by decide)]
  rfl

theorem step_statusWrite (hm : s.moves = .busWrite 0x008#12 .b4 data :: rest) :
    step s = .next { s with
      moves := rest
      done := if data.getLsbD 1 then false else s.done
      err := if data.getLsbD 2 then false else s.err
      errcode := if data.getLsbD 2 then .noError else s.errcode
      replies := s.replies ++ [⟨.okay, 0#32⟩] } := by
  have hf : writeFails 0x008#12 .b4 s = false := by
    rw [← Bool.not_eq_true, writeFails_iff]
    simp [accessFails_iff, Size.bytes]
  have hr : regionOf 0x008#12 = .status := by decide
  rw [step_busWrite_stores hm hf (by decide), storeRegister, hr]
  simp only [writeStatus_eq]
  rfl

theorem step_gfWrite (hb : s.busy = false) (hm : s.moves = .busWrite 0x00C#12 .b4 data :: rest) :
    step s = .next { s with
      moves := rest, gfA := data.extractLsb' 0 8, gfB := data.extractLsb' 8 8
      replies := s.replies ++ [⟨.okay, 0#32⟩] } := by
  have hf : writeFails 0x00C#12 .b4 s = false := by
    rw [← Bool.not_eq_true, writeFails_iff]
    simp [accessFails_iff, Size.bytes, hb]
  rw [step_busWrite_stores hm hf (by decide)]
  rfl

end Control

/-- Settles O49: one lemma for each register; GF.A and GF.B are the two low bytes of the data. -/
theorem controlRegisterWrites : Obligations.ControlRegisterWrites := by
  unfold Obligations.ControlRegisterWrites
  intro s data rest
  refine ⟨step_configWrite, step_statusWrite, fun hb hm => ⟨_, _, ?_, ?_, step_gfWrite hb hm⟩⟩
  · simp [BitVec.extractLsb'_toNat]
  · simp [BitVec.extractLsb'_toNat, Nat.shiftRight_eq_div_pow]

/-! ### The interrupt level -/

/-- A CMD write at BUSY = 0 clears both outcomes; then a command error sets ERR, or the core becomes busy. -/
theorem step_cmdWrite_outcome {s : State} {w : Word} {rest : List Move}
    (hm : s.moves = .busWrite 0x000#12 .b4 w :: rest) (hb : s.busy = false) :
    ∃ t, step s = .next t ∧ t.done = false ∧ t.err = !t.busy ∧ t.ie = s.ie ∧
      (t.busy = true → ∃ i, decode w = .ok i) := by
  rw [step_cmdWrite_idle hm hb]
  rcases runWord_cases (s := addReply replyOkay { s with moves := rest, cmd := w }) hb w with
    ⟨code, -, hw⟩ | ⟨i, hd, -, hw⟩
  · exact ⟨_, hw, by simp, by simp [hb], by simp, by simp [hb]⟩
  · exact ⟨_, hw, by simp, by simp, by simp, fun _ => ⟨i, hd⟩⟩

/-- A move of the core that ends BUSY is a completion. -/
theorem MoveDoes.core_ends {s t : State} (h : MoveDoes .core s t) (hb : s.busy = true) (hend : t.busy = false) :
    t.done = true ∧ t.ie = s.ie := by
  cases h with
  | idle _ hidle => simp [hb] at hidle
  | wait => simp [hb] at hend
  | emit => simp [hb] at hend
  | completes i => simp [completed_frame]
  | _ => simp_all

/-- Settles O54: IRQ is computed from IE, DONE and ERR, so each clause follows from what its move makes of them. -/
theorem interruptIsALevel : Obligations.InterruptIsALevel := by
  unfold Obligations.InterruptIsALevel
  intro s data rest
  refine ⟨fun hm => ⟨_, step_configWrite hm, rfl, rfl, rfl⟩, fun hm => ⟨_, step_statusWrite hm, ?_⟩, fun hm hb => ?_,
    fun hm => ⟨resetEvent { s with moves := rest }, by rw [step_cons hm, runMove], rfl⟩,
    fun hb hnext t hstep hend => ?_⟩
  · cases data.getLsbD 1 <;> cases data.getLsbD 2 <;> simp [State.irq]
  · obtain ⟨t, hstep, hdone, herr, hie, hok⟩ := step_cmdWrite_outcome hm hb
    refine ⟨t, hstep, hdone, herr, by simp [State.irq, hie, hdone, herr], fun hillegal => ?_⟩
    rw [← Bool.not_eq_true]
    intro hbusy
    rw [(legal_iff_decode data).mpr (hok hbusy)] at hillegal
    cases hillegal
  · obtain ⟨m, hm, hdoes⟩ := step_does hstep
    have hcore : m = .core := by
      rcases hm with hm | ⟨-, hm⟩
      · rcases hnext with h | h <;> simp_all
      · exact hm
    obtain ⟨hdone, hie⟩ := (hcore ▸ hdoes).core_ends hb hend
    exact ⟨hdone, by simp [State.irq, hdone, hie]⟩

end Sys2Proof.Machine
end

section
/-!
A step that runs a command: its dispatch at BUSY = 0 (30_encoding.md R89, R90; 60_exceptions.md R264 to R266) and its
completion at BUSY = 1 (30_encoding.md R91), with everything that each writes and leaves.
-/

namespace Sys2Proof.Machine

/-! ### The step and its command -/

/-- Settles O5: the word write at offset 0 stores the word, answers and dispatches. -/
theorem stepRunsTheWrittenCommand : Obligations.StepRunsTheWrittenCommand := by
  unfold Obligations.StepRunsTheWrittenCommand
  intro s w i rest hb hm hd
  rw [step_cmdWrite_idle hm hb, runWord_ok hd]
  rfl

theorem step_coreNext {s : State} (h : coreNext s) : step s = coreMove { s with moves := s.moves.tail } := by
  cases hm : s.moves with
  | nil =>
    rw [step_nil hm, List.tail_nil, ← hm]
  | cons m rest =>
    have hcore : m = .core := by
      rcases h with h | h <;> simp_all
    rw [step_cons hm, hcore]
    rfl

/-- Settles O6: the three cases of the core's move. -/
theorem stepRunsTheCommandInFlight : Obligations.StepRunsTheCommandInFlight := by
  unfold Obligations.StepRunsTheCommandInFlight
  intro s hnext
  rw [step_coreNext hnext]
  refine ⟨fun hb => ⟨fun i hd => ?_, fun e he => ?_⟩, fun hb => ?_⟩
  · exact coreMove_busy (s := { s with moves := s.moves.tail }) hb hd
  · simp [coreMove, hb, he]
  · exact coreMove_idle (s := { s with moves := s.moves.tail }) hb

/-! ### Dispatch -/

/-- Settles O10: the error is recorded on the cleared outcome, and no check raises NONE. -/
theorem failedCommandOnlyRecordsTheError : Obligations.FailedCommandOnlyRecordsTheError := by
  unfold Obligations.FailedCommandOnlyRecordsTheError
  intro s i code hb hc
  refine ⟨exec_of_commandError hb hc, ?_⟩
  rintro rfl
  exact commandError_ne_noError i s.sv hc

/-- A command that needs the schedule, well formed and with its lengths right, fails while SV = 0. -/
theorem commandError_noSchedule {i : Instr} (hw : i.wellFormed = true) (hblen : wrongLength (blenOf i) = false)
    (hklen : wrongLength (klenOf i) = false) (hn : needsSched i = true) : commandError i false = some .noSchedule := by
  simp [commandError, hw, hblen, hklen, hn]

/-- Settles O9: each of the three commands passes the checks before that of SV. -/
theorem noScheduleRaisedWhileSvClear : Obligations.NoScheduleRaisedWhileSvClear := by
  unfold Obligations.NoScheduleRaisedWhileSvClear
  intro s rnd i hb hsv hrnd hi
  refine exec_of_commandError hb ?_
  rw [hsv]
  simp only [List.mem_cons, List.not_mem_nil, or_false] at hi
  rcases hi with rfl | rfl | rfl
  · exact commandError_noSchedule rfl rfl rfl rfl
  · exact commandError_noSchedule rfl rfl rfl rfl
  · exact commandError_noSchedule (decide_eq_true hrnd) rfl rfl rfl

theorem isPipeline_iff_op (i : Instr) : isPipeline i = true ↔ i.fields.op ∈ [0x1#4, 0x2#4, 0x4#4, 0x5#4] := by
  cases i <;> simp [isPipeline, Instr.fields]

/-- Settles O11: the writes of `accept(w)` on the cleared outcome, with the lists of R88 by the OP value. -/
theorem acceptedCommandMakesTheCoreBusy : Obligations.AcceptedCommandMakesTheCoreBusy := by
  unfold Obligations.AcceptedCommandMakesTheCoreBusy
  intro s i hb hc
  rw [exec_idle hb, dispatchCommand_accept hc]
  simp only [accept, acceptScratch, isPipeline_iff_op, writesSched_iff_op]
  rfl

/-! ### Completion of the single-step commands -/

/-- Settles O12: the product is all that GF_MUL writes before it ends. -/
theorem gfMulCompletes : Obligations.GfMulCompletes := by
  unfold Obligations.GfMulCompletes
  exact fun s hb => exec_busy_single hb rfl rfl

/-- Settles O14: byte `r + 4c` of `encode(STATE)` is the element `(r, c)`, as decoding it again shows. -/
theorem storeStateCompletes : Obligations.StoreStateCompletes := by
  unfold Obligations.StoreStateCompletes
  intro s hb
  refine ⟨encodeState s.st, fun r c => ?_, exec_busy_single hb rfl rfl⟩
  rw [← decodeBlock_at, decodeBlock_encodeState]

/-- Settles O18: RND up to 10 is an index of the schedule, RND above it is none. -/
theorem addRoundKeyCompletes : Obligations.AddRoundKeyCompletes := by
  unfold Obligations.AddRoundKeyCompletes
  intro s rnd hb
  refine ⟨fun k hk => ⟨addRoundKey s.st s.rk[k], addRoundKey_at s.st s.rk[k], ?_⟩, fun hrnd => ?_⟩
  · have hlt : rnd.toNat < 11 := by omega
    have hkey : s.rk[rnd.toNat]?.getD Mat.zero = s.rk[k] := by
      rw [Vector.getElem?_eq_getElem hlt]
      simp [hk]
    rw [exec_busy_single (i := .addRoundKey rnd) hb (decide_eq_true (by omega)) rfl, completed, hkey]
    rfl
  · have hnone : s.rk[rnd.toNat]? = none := Vector.getElem?_eq_none (by omega)
    simp [exec, execAddRoundKey, runPhases, hb, addRoundKeyStep, roundKeyAt, hnone]

/-- Settles O19: EXPAND_KEY writes RK and SV and ends. -/
theorem expandKeyCompletes : Obligations.ExpandKeyCompletes := by
  unfold Obligations.ExpandKeyCompletes
  exact fun s _ hb => exec_busy_single hb rfl rfl

/-! ### Completion of the pipeline commands -/

/-- A pipeline command completes when it is not traced, or when all its events are out and accepted. -/
theorem exec_pipeline_completes {s : State} {i : Instr} {c : Cipher} (hc : cipherOf i = some c) (hb : s.busy = true)
    (hend : s.lte = false ∨ (s.seq = 40 ∧ s.tq = none)) : exec i s = .next (completed i s) := by
  refine exec_completes hb (wellFormed_of_cipherOf hc) fun _ _ hl => ?_
  rcases hend with hl' | ⟨hseq, ht⟩
  · simp [hl] at hl'
  · exact ⟨ht, hseq.ge⟩

/-- Settles O20: STATE is the decoded result, whose encoding in DOUT is the result again. -/
theorem encryptCompletes : Obligations.EncryptCompletes := by
  unfold Obligations.EncryptCompletes
  intro s blen klen hb hend
  rw [exec_pipeline_completes rfl hb hend]
  simp [completed, finishExpanded, writeCipherResult, writeSchedule, complete, cipherBlock]

/-- Settles O21, as for ENCRYPT. -/
theorem decryptCompletes : Obligations.DecryptCompletes := by
  unfold Obligations.DecryptCompletes
  intro s blen klen hb hend
  rw [exec_pipeline_completes rfl hb hend]
  simp [completed, finishExpanded, writeCipherResult, writeSchedule, complete, cipherBlock]

/-- Settles O22, with the RK store as the schedule. -/
theorem storedScheduleCommandsComplete : Obligations.StoredScheduleCommandsComplete := by
  unfold Obligations.StoredScheduleCommandsComplete
  intro s blen hb hend
  rw [exec_pipeline_completes rfl hb hend, exec_pipeline_completes rfl hb hend]
  simp [completed, finishStored, writeCipherResult, complete, cipherBlock]

/-! ### Reset -/

/-- Settles O55: the fields of the reset state, evaluated. -/
theorem resetValues : Obligations.ResetValues := by
  unfold Obligations.ResetValues
  decide

/-- Settles O56: the reset event takes every register to its value at reset, and keeps what the sink and the host have
received and the moves still listed. -/
theorem resetEventAbortsAndResets : Obligations.ResetEventAbortsAndResets := by
  unfold Obligations.ResetEventAbortsAndResets
  intro s rest hm
  obtain ⟨hcmd, hconfig, hstatus, hgf, hblocks, hst, hlcmd, hlte, hseq, htq, hirq, hbusy, -⟩ := resetValues
  exact ⟨resetEvent { s with moves := rest }, by rw [step_cons hm, runMove], hcmd, hconfig, hstatus, hgf, hblocks, hst,
    hlcmd, hlte, hseq, htq, hirq, hbusy, rfl, rfl, rfl⟩

end Sys2Proof.Machine
end

section
/-!
The field: the laws of the multiplier (40_gf_and_tables.md R112), that it is the product of polynomials modulo
x^8+x^4+x^3+x+1 (R111), and the checks of the tables (R115 to R117). Every map here is additive in each factor, so two
of them agree once they agree on the one-bit bytes.
-/

namespace Sys2Proof.Machine

/-! ### The laws of the multiplier -/

theorem gmul_xor_left (a c b : Byte) : gmul (a ^^^ c) b = gmul a b ^^^ gmul c b := gmulLoop_xor_left 8 a c b

theorem gmul_xor_right (a b c : Byte) : gmul a (b ^^^ c) = gmul a b ^^^ gmul a c := gmulLoop_xor_right 8 a b c

/-- Two maps of two bytes, additive in each, that agree on the one-bit bytes agree everywhere. -/
theorem biadditive_ext {n : Nat} {f g : Byte → Byte → BitVec n} (hfl : ∀ b, XorAdditive (f · b))
    (hfr : ∀ a, XorAdditive (f a)) (hgl : ∀ b, XorAdditive (g · b)) (hgr : ∀ a, XorAdditive (g a))
    (h : ∀ i j : Fin 8, f (1#8 <<< i.val) (1#8 <<< j.val) = g (1#8 <<< i.val) (1#8 <<< j.val)) (a b : Byte) :
    f a b = g a b :=
  XorAdditive.ext (hfl b) (hgl b) (fun i => XorAdditive.ext (hfr _) (hgr _) (h i) b) a

theorem gmul_comm (a b : Byte) : gmul a b = gmul b a :=
  biadditive_ext (f := gmul) (g := fun a b => gmul b a) (fun b a c => gmul_xor_left a c b) gmul_xor_right
    (fun b => gmul_xor_right b) (fun a b c => gmul_xor_left b c a) (by decide) a b

theorem gmul_zero (a : Byte) : gmul a 0x00#8 = 0x00#8 := XorAdditive.zero (gmul_xor_right a)

theorem gmul_one (a : Byte) : gmul a 0x01#8 = a := by
  rw [gmul_comm, gmul_one_left]

theorem gmul_two (a : Byte) : gmul a 0x02#8 = xtime a :=
  XorAdditive.ext (f := (gmul · 0x02#8)) (fun a c => gmul_xor_left a c 0x02#8) xtime_xor (by decide) a

/-- Settles O32: the first laws by additivity, the last two from the doubling of the loop. -/
theorem gmulLaws : Obligations.GmulLaws := by
  unfold Obligations.GmulLaws
  intro a b c
  refine ⟨gmul_comm a b, gmul_zero a, gmul_one a, gmul_xor_right a b c, ?_, ?_⟩
  · refine (gmul_two a).trans ?_
    unfold xtime
    cases a.getLsbD 7 <;> simp
  · calc gmul a 0x03#8 = gmul a (0x02#8 ^^^ 0x01#8) := rfl
      _ = gmul a 0x02#8 ^^^ a := by rw [gmul_xor_right, gmul_one]

/-! ### The product of polynomials -/

/-- A summand chosen by the exclusive-or of two bits. -/
theorem ite_bne_xor {n : Nat} (x y : Bool) (m : BitVec n) :
    (if (x ^^ y) = true then m else 0#n) = (if x = true then m else 0#n) ^^^ (if y = true then m else 0#n) := by
  cases x <;> cases y <;> simp

theorem xor_xor_xor_comm {n : Nat} (a b c d : BitVec n) : a ^^^ b ^^^ (c ^^^ d) = a ^^^ c ^^^ (b ^^^ d) := by
  ac_rfl

/-- A sum of sums is the sum of the two. -/
theorem foldl_xor_xor {n : Nat} (f g : Nat → BitVec n) (l : List Nat) (p q : BitVec n) :
    l.foldl (fun p i => p ^^^ (f i ^^^ g i)) (p ^^^ q) =
      l.foldl (fun p i => p ^^^ f i) p ^^^ l.foldl (fun p i => p ^^^ g i) q := by
  induction l generalizing p q with
  | nil => rfl
  | cons i l ih => rw [List.foldl_cons, xor_xor_xor_comm, ih, List.foldl_cons, List.foldl_cons]

/-- The summand of bit `i` of `b` in the carry-less product. -/
def clmulTerm (a b : Byte) (i : Nat) : BitVec 16 := if b.getLsbD i = true then a.setWidth 16 <<< i else 0#16

theorem clmul_eq (a b : Byte) : clmul a b = (List.range 8).foldl (fun p i => p ^^^ clmulTerm a b i) 0#16 := by
  unfold clmul clmulTerm
  congr 1
  funext p i
  cases b.getLsbD i <;> simp

theorem clmul_xor_right (a b c : Byte) : clmul a (b ^^^ c) = clmul a b ^^^ clmul a c := by
  have hterm (i : Nat) : clmulTerm a (b ^^^ c) i = clmulTerm a b i ^^^ clmulTerm a c i := by
    rw [clmulTerm, BitVec.getLsbD_xor, ite_bne_xor, clmulTerm, clmulTerm]
  simp only [clmul_eq, hterm]
  exact foldl_xor_xor _ _ _ 0#16 0#16

theorem clmul_xor_left (a c b : Byte) : clmul (a ^^^ c) b = clmul a b ^^^ clmul c b := by
  have hterm (i : Nat) : clmulTerm (a ^^^ c) b i = clmulTerm a b i ^^^ clmulTerm c b i := by
    unfold clmulTerm
    split
    · rw [BitVec.setWidth_xor, BitVec.shiftLeft_xor_distrib]
    · rw [BitVec.xor_zero]
  simp only [clmul_eq, hterm]
  exact foldl_xor_xor _ _ _ 0#16 0#16

theorem cancelTerm_eq (p : BitVec 16) (i : Nat) :
    cancelTerm p i = p ^^^ if p.getLsbD (i + 8) = true then 0x11B#16 <<< i else 0#16 := by
  unfold cancelTerm
  split <;> simp

theorem cancelTerm_xor (p q : BitVec 16) (i : Nat) : cancelTerm (p ^^^ q) i = cancelTerm p i ^^^ cancelTerm q i := by
  rw [cancelTerm_eq, BitVec.getLsbD_xor, ite_bne_xor, xor_xor_xor_comm, ← cancelTerm_eq, ← cancelTerm_eq]

theorem polyRemainder_xor (p q : BitVec 16) : polyRemainder (p ^^^ q) = polyRemainder p ^^^ polyRemainder q := by
  unfold polyRemainder
  generalize [7, 6, 5, 4, 3, 2, 1, 0] = l
  rw [← BitVec.setWidth_xor]
  congr 1
  induction l generalizing p q with
  | nil => rfl
  | cons i l ih => rw [List.foldl_cons, cancelTerm_xor, ih, List.foldl_cons, List.foldl_cons]

/-- Settles O33: both sides are additive in each factor, and they agree on the 64 pairs of one-bit bytes. -/
theorem gmulIsThePolynomialProduct : Obligations.GmulIsThePolynomialProduct :=
  biadditive_ext (f := gmul) (g := fun a b => polyRemainder (clmul a b)) (fun b a c => gmul_xor_left a c b)
    gmul_xor_right
    (fun b a c => by simp only [clmul_xor_left, polyRemainder_xor])
    (fun a b c => by simp only [clmul_xor_right, polyRemainder_xor]) (by decide)

/-! ### The tables -/

/-- The inverse of the affine map of R115: `sboxAffine (sboxAffineInv z) = z`. -/
def sboxAffineInv (z : Byte) : Byte := z.rotateLeft 1 ^^^ z.rotateLeft 3 ^^^ z.rotateLeft 6 ^^^ 0x05#8

/-- Settles O34: the `y` of each table entry is found by inverting the affine map, and the 256 entries are checked. -/
theorem sboxIsTheAffineInverse : Obligations.SboxIsTheAffineInverse := by
  unfold Obligations.SboxIsTheAffineInverse
  intro x
  refine ⟨sboxAffineInv (sbox x), ?_⟩
  revert x
  decide +kernel

/-- Settles O35: the 256 entries of each table and the ten of RCON, checked. -/
theorem romsAgreeWithTheirChecks : Obligations.RomsAgreeWithTheirChecks := by
  unfold Obligations.RomsAgreeWithTheirChecks
  decide +kernel

end Sys2Proof.Machine
end

section
/-!
The cipher: the two directions of each round transform undo each other (43_round_transforms.md R186), hence Decrypt
undoes Encrypt (44_cipher_pipeline.md R222); the step tables are the loops (R223, R224); and the key schedule in its flat form
(42_key_schedule.md R167).
-/

namespace Sys2Proof.Machine

/-! ### The round transforms undo each other -/

theorem invSbox_sbox (x : Byte) : invSbox (sbox x) = x := (romsAgreeWithTheirChecks.1 x).1

theorem sbox_invSbox (x : Byte) : sbox (invSbox x) = x := (romsAgreeWithTheirChecks.1 x).2

theorem subBytes_undo {d e : Direction} (h : d ≠ e) (s : Mat) : subBytes e (subBytes d s) = s := by
  apply Mat.ext_at
  intro r c
  cases d <;> cases e <;> simp [invSbox_sbox, sbox_invSbox] at h ⊢

theorem shiftRows_undo {d e : Direction} (h : d ≠ e) (s : Mat) : shiftRows e (shiftRows d s) = s := by
  apply Mat.ext_at
  intro r c
  cases d <;> cases e <;> simp at h ⊢

theorem addRoundKey_undo (s k : Mat) : addRoundKey (addRoundKey s k) k = s := by
  apply Mat.ext_at
  intro r c
  simp

/-- Element `(r, j)` of the product of two coefficient matrices, as a map of bytes. -/
def mixProduct (n m : Mat) (r j : Fin 4) (b : Byte) : Byte :=
  gmul (n.at r 0) (gmul (m.at 0 j) b) ^^^ gmul (n.at r 1) (gmul (m.at 1 j) b) ^^^ gmul (n.at r 2) (gmul (m.at 2 j) b)
    ^^^ gmul (n.at r 3) (gmul (m.at 3 j) b)

theorem mixProduct_additive (n m : Mat) (r j : Fin 4) : XorAdditive (mixProduct n m r j) := by
  intro a b
  simp only [mixProduct, gmul_xor_right]
  ac_rfl

/-- One matrix after another is their product. -/
theorem mixWith_mixWith_at (n m s : Mat) (r c : Fin 4) :
    (mixWith n (mixWith m s)).at r c =
      mixProduct n m r 0 (s.at 0 c) ^^^ mixProduct n m r 1 (s.at 1 c) ^^^ mixProduct n m r 2 (s.at 2 c)
        ^^^ mixProduct n m r 3 (s.at 3 c) := by
  simp only [mixWith_at, mixProduct, gmul_xor_right]
  ac_rfl

/-- The two matrices of R183 and R184 are inverse to each other: an element of the product is 01 or 00. -/
def MixInverse (n m : Mat) : Prop := ∀ (r j : Fin 4) (b : Byte), mixProduct n m r j b = if r = j then b else 0#8

theorem mixInverse_of_bits {n m : Mat}
    (h : ∀ (r j : Fin 4) (i : Fin 8),
      mixProduct n m r j (1#8 <<< i.val) = if r = j then 1#8 <<< i.val else 0#8) : MixInverse n m := by
  intro r j
  refine XorAdditive.ext (mixProduct_additive n m r j) (fun a b => ?_) (h r j)
  split <;> simp

theorem mixMatrixInv_mixMatrix : MixInverse mixMatrixInv mixMatrix := mixInverse_of_bits (by decide +kernel)

theorem mixMatrix_mixMatrixInv : MixInverse mixMatrix mixMatrixInv := mixInverse_of_bits (by decide +kernel)

theorem MixInverse.undo {n m : Mat} (h : MixInverse n m) (s : Mat) : mixWith n (mixWith m s) = s := by
  apply Mat.ext_at
  intro r c
  rw [mixWith_mixWith_at]
  simp only [h r]
  fin_cases r <;> simp

theorem mixColumns_undo {d e : Direction} (h : d ≠ e) (s : Mat) : mixColumns e (mixColumns d s) = s := by
  cases d <;> cases e
  · exact absurd rfl h
  · exact mixMatrixInv_mixMatrix.undo s
  · exact mixMatrix_mixMatrixInv.undo s
  · exact absurd rfl h

/-- Settles O37: one lemma for each transform. -/
theorem transformsUndoEachOther : Obligations.TransformsUndoEachOther :=
  fun s k _ _ h => ⟨subBytes_undo h s, shiftRows_undo h s, mixColumns_undo h s, addRoundKey_undo s k⟩

/-! ### Decrypt undoes Encrypt -/

/-- SubBytes and ShiftRows, with which each round of Encrypt begins. -/
def substitute (s : Mat) : Mat := shiftRows .forward (subBytes .forward s)

theorem substitute_undo (s : Mat) : subBytes .inverse (shiftRows .inverse (substitute s)) = s := by
  rw [substitute, shiftRows_undo (by decide), subBytes_undo (by decide)]

/-- A round of Decrypt takes back the substitution of the next round and the mixing of its own. -/
theorem decryptRound_substitute_encryptRound (rk : Schedule) (s : Mat) (r : Fin 11) :
    decryptRound rk (substitute (encryptRound rk s r)) r = substitute s := by
  rw [decryptRound, substitute_undo, encryptRound, addRoundKey_undo, mixColumns_undo (by decide), substitute]

/-- The rounds of Decrypt in reverse order take back the rounds of Encrypt. -/
theorem foldl_decryptRound_reverse (rk : Schedule) (l : List (Fin 11)) (s : Mat) :
    l.reverse.foldl (decryptRound rk) (substitute (l.foldl (encryptRound rk) s)) = substitute s := by
  induction l generalizing s with
  | nil => rfl
  | cons r l ih =>
    rw [List.foldl_cons, List.reverse_cons, List.foldl_append, ih, List.foldl_cons, List.foldl_nil,
      decryptRound_substitute_encryptRound]

/-- The State in which the last round of Encrypt begins. -/
def encryptRounds (rk : Schedule) (p : Block) : Mat :=
  ([1, 2, 3, 4, 5, 6, 7, 8, 9] : List (Fin 11)).foldl (encryptRound rk) (addRoundKey (decodeBlock p) rk[0])

theorem encryptBlock_eq (rk : Schedule) (p : Block) :
    encryptBlock p rk = encodeState (addRoundKey (substitute (encryptRounds rk p)) rk[10]) := rfl

/-- R222, for any schedule: the last key, the rounds in reverse order, the first substitution and the first key. -/
theorem decryptBlock_encryptBlock (rk : Schedule) (p : Block) : decryptBlock (encryptBlock p rk) rk = p := by
  have hrounds :
      [9, 8, 7, 6, 5, 4, 3, 2, 1].foldl (decryptRound rk) (substitute (encryptRounds rk p)) =
        substitute (addRoundKey (decodeBlock p) rk[0]) :=
    foldl_decryptRound_reverse rk [1, 2, 3, 4, 5, 6, 7, 8, 9] _
  rw [decryptBlock, encryptBlock_eq, decodeBlock_encodeState, addRoundKey_undo, hrounds, substitute_undo,
    addRoundKey_undo, encodeState_decodeBlock]

/-- Settles O40: the schedule of the key is one of them. -/
theorem decryptUndoesEncrypt : Obligations.DecryptUndoesEncrypt :=
  fun p k => decryptBlock_encryptBlock (expand k) p

/-! ### The step tables -/

/-- The 40 steps of each table in order are the loop of its cipher: both apply the same transforms (R223, R224). -/
theorem encodeState_stateAfter (c : Cipher) (rk : Schedule) (b : Block) :
    encodeState (stateAfter c rk b 40) = cipherBlock c b rk := by
  cases c <;> rfl

/-- Settles O39: the rows are looked up for each round, the loops are those of the two ciphers. -/
theorem stepTablesAreTheLoops : Obligations.StepTablesAreTheLoops := by
  unfold Obligations.StepTablesAreTheLoops
  refine ⟨fun r q _ _ => ⟨?_, ?_⟩, rfl, rfl, rfl, rfl, fun rk b =>
    ⟨encodeState_stateAfter .encrypt rk b, encodeState_stateAfter .decrypt rk b⟩⟩
  · rintro rfl
    revert r
    decide
  · rintro rfl
    revert r
    decide

/-! ### The key schedule in flat form -/

/-- The words of the round key after `p`, with the words of `p` (R161 to R165). -/
theorem roundKey_succ_at (key : Block) (i : Fin 10) (r c : Fin 4) :
    (roundKey key (i.val + 1)).at r c =
      scheduleColumn (roundKey key i.val) (scheduleWord i (roundKey key i.val)) r c.val := by
  rw [roundKey, nextRoundKey_at, Fin.ofNat_val_eq_self]

/-- Word `4i + c` of the flat form is column `c` of round key `i`. -/
theorem flatWord_eq {key : Block} {W : Nat → Fin 4 → Byte}
    (hW : ∀ (i : Fin 11) (c j : Fin 4), W (4 * i.val + c.val) j = (encodeState (expand key)[i])[4 * c.val + j.val])
    (i : Fin 11) (c j : Fin 4) : W (4 * i.val + c.val) j = (roundKey key i.val).at j c := by
  have hrow : (4 * c.val + j.val) % 4 = j.val := by omega
  have hcol : (4 * c.val + j.val) / 4 = c.val := by omega
  rw [hW i c j]
  simp [hrow, hcol]

/-- Settles O38: column 0 of a new round key is from the transformed word, each further one from the column before. -/
theorem keyScheduleInFlatForm : Obligations.KeyScheduleInFlatForm := by
  unfold Obligations.KeyScheduleInFlatForm
  intro key W hW
  have word (i : Fin 10) (c j : Fin 4) : W (4 * i.val + c.val) j = (roundKey key i.val).at j c :=
    flatWord_eq hW i.castSucc c j
  have newWord (i : Fin 10) (c j : Fin 4) :
      W (4 * i.val + 4 + c.val) j =
        scheduleColumn (roundKey key i.val) (scheduleWord i (roundKey key i.val)) j c.val :=
    (flatWord_eq hW i.succ c j).trans (roundKey_succ_at key i j c)
  refine ⟨fun k j => ?_, fun i j => ?_, fun i c j => ?_⟩
  · have h := word 0 k j
    simp only [Fin.val_zero, Nat.mul_zero, Nat.zero_add, roundKey, decodeBlock_at] at h
    rw [h]
    congr 1
    omega
  · have hnew : W (4 * i.val + 4) j = (roundKey key i.val).at j 0 ^^^ scheduleWord i (roundKey key i.val) j :=
      newWord i 0 j
    have hfirst : W (4 * i.val) j = (roundKey key i.val).at j 0 := word i 0 j
    have hlast : W (4 * i.val + 3) (j + 1) = (roundKey key i.val).at (j + 1) 3 := word i 3 (j + 1)
    rw [hnew, hfirst, hlast, scheduleWord]
    split <;> simp [BitVec.xor_assoc]
  · have hnew := newWord i c.succ j
    have hbefore := newWord i c.castSucc j
    have hold := word i c.succ j
    rw [Fin.val_succ, scheduleColumn] at hnew
    rw [Fin.val_succ] at hold
    rw [Fin.val_castSucc] at hbefore
    rw [show 4 * i.val + c.val + 5 = 4 * i.val + 4 + (c.val + 1) by omega, hnew,
      show 4 * i.val + c.val + 1 = 4 * i.val + (c.val + 1) by omega, hold,
      show 4 * i.val + c.val + 4 = 4 * i.val + 4 + c.val by omega, hbefore]
    congr 2
    exact Fin.ofNat_val_eq_self c.succ

end Sys2Proof.Machine
end

section
/-!
Whole runs of a command: an untraced one takes the CMD write and one step of the core (30_encoding.md R91), a traced one
delivers its 80 events in between (44_cipher_pipeline.md R227 to R229).
-/

namespace Sys2Proof.Machine

/-! ### Untraced runs -/

/-- The state after the CMD write of the word `w` of an accepted command `i`, with `rest` as the moves still to come. -/
def accepted (w : Word) (i : Instr) (rest : List Move) (s : State) : State :=
  accept i (clearOutcome (addReply replyOkay { s with moves := rest, cmd := w }))

theorem scheduleOf_accepted (w : Word) (i : Instr) (rest : List Move) (s : State) :
    scheduleOf i (accepted w i rest s) = scheduleOf i s :=
  scheduleOf_congr (by simp [accepted]) (by simp [accepted])

section Run

variable {s : State} {w : Word} {i : Instr} {rest : List Move} (hb : s.busy = false) (hd : decode w = .ok i)
  (hc : commandError i s.sv = none)
include hb hd hc

theorem step_accepted (hm : s.moves = .busWrite 0x000#12 .b4 w :: rest) : step s = .next (accepted w i rest s) := by
  rw [step_cmdWrite_idle hm hb, runWord_ok hd, exec_idle (by simpa using hb),
    dispatchCommand_accept (by simpa using hc), accepted]

/-- The run of an untraced command: the CMD write, and one step of the core. -/
theorem runSteps_untraced (hte : s.te = false) (hm : s.moves = .busWrite 0x000#12 .b4 w :: .core :: rest) :
    runSteps 2 s = .next (completed i (accepted w i rest s)) := by
  have hbusy : (accepted w i rest s).busy = true := by simp [accepted]
  have hlcmd : decode (accepted w i rest s).lcmd = .ok i := by simpa [accepted, encode_of_decode hd] using hd
  have huntraced : (accepted w i rest s).lte = false := by simp [accepted, hte]
  have hcore : step (accepted w i (.core :: rest) s) = .next (completed i (accepted w i rest s)) := calc
    _ = coreMove (accepted w i rest s) := step_cons (s := accepted w i (.core :: rest) s) rfl
    _ = exec i (accepted w i rest s) := coreMove_busy hbusy hlcmd
    _ = _ := exec_completes hbusy (wellFormed_of_decode hd) fun _ _ hl => by simp [huntraced] at hl
  rw [runSteps_succ (step_accepted hb hd hc hm), runSteps_succ hcore, runSteps_zero]

end Run

/-- What the completion right after acceptance leaves, but for its results. -/
theorem completed_accepted_frame (w : Word) (i : Instr) (rest : List Move) (s : State) :
    (completed i (accepted w i rest s)).busy = false ∧ (completed i (accepted w i rest s)).done = true ∧
    (completed i (accepted w i rest s)).err = false ∧ (completed i (accepted w i rest s)).errcode = .noError ∧
    (completed i (accepted w i rest s)).te = s.te ∧ (completed i (accepted w i rest s)).ie = s.ie ∧
    (completed i (accepted w i rest s)).key = s.key ∧ (completed i (accepted w i rest s)).din = s.din ∧
    (completed i (accepted w i rest s)).delivered = s.delivered ∧
    (completed i (accepted w i rest s)).moves = rest := by
  simp [completed_frame, accepted]

/-- The results of a pipeline command that has just been accepted. -/
theorem completed_accepted_cipher {i : Instr} {c : Cipher} (hc : cipherOf i = some c) (w : Word) (rest : List Move)
    (s : State) :
    (completed i (accepted w i rest s)).dout = cipherBlock c s.din (scheduleOf i s) ∧
    (completed i (accepted w i rest s)).st = decodeBlock (cipherBlock c s.din (scheduleOf i s)) := by
  obtain ⟨hst, hdout, -⟩ := completed_cipher hc (accepted w i rest s)
  rw [scheduleOf_accepted] at hst hdout
  rw [hst, hdout, encodeState_decodeBlock]
  simp [accepted]

/-! ### The stored schedule -/

/-- The run of an untraced pipeline command. -/
theorem runSteps_untraced_cipher {s : State} {w : Word} {i : Instr} {c : Cipher} (hb : s.busy = false)
    (hte : s.te = false) (hd : decode w = .ok i) (hcipher : cipherOf i = some c) (hc : commandError i s.sv = none)
    (hm : s.moves = [.busWrite 0x000#12 .b4 w, .core]) :
    ∃ t, runSteps 2 s = .next t ∧ t.dout = cipherBlock c s.din (scheduleOf i s) ∧ t.done = true ∧ t.err = false ∧
      t.key = s.key ∧ t.busy = false ∧ t.te = s.te := by
  obtain ⟨hdout, -⟩ := completed_accepted_cipher hcipher w [] s
  obtain ⟨hbusy, hdone, herr, -, hte', -, hkey, -⟩ := completed_accepted_frame w i [] s
  exact ⟨_, runSteps_untraced hb hd hc hte hm, hdout, hdone, herr, hkey, hbusy, hte'⟩

theorem decode_encrypt : decode 0x10100001#32 = .ok (.encrypt 16#5 16#5) := by decide

theorem decode_decrypt : decode 0x10100002#32 = .ok (.decrypt 16#5 16#5) := by decide

theorem decode_expandKey : decode 0x10000003#32 = .ok (.expandKey 16#5) := by decide

theorem decode_encryptRk : decode 0x00100004#32 = .ok (.encryptRk 16#5) := by decide

theorem decode_decryptRk : decode 0x00100005#32 = .ok (.decryptRk 16#5) := by decide

/-- What EXPAND_KEY leaves, untraced: the schedule of KEY with SV = 1. -/
theorem runSteps_expandKey {s : State} {rest : List Move} (hb : s.busy = false) (hte : s.te = false)
    (hm : s.moves = .busWrite 0x000#12 .b4 0x10000003#32 :: .core :: rest) :
    ∃ t, runSteps 2 s = .next t ∧ t.busy = false ∧ t.te = s.te ∧ t.din = s.din ∧ t.rk = expand s.key ∧ t.sv = true ∧
      t.moves = rest := by
  obtain ⟨hrk, hsv⟩ := completed_schedule (.expandKey 16#5) (accepted 0x10000003#32 (.expandKey 16#5) rest s)
  obtain ⟨hbusy, -, -, -, hte', -, -, hdin, -, hmoves⟩ :=
    completed_accepted_frame 0x10000003#32 (.expandKey 16#5) rest s
  exact ⟨_, runSteps_untraced hb decode_expandKey rfl hte hm, hbusy, hte', hdin, hrk, hsv, hmoves⟩

/-- The run of EXPAND_KEY and then of a command with the stored schedule, both untraced. -/
theorem runSteps_expandKey_then {s : State} {w : Word} {i : Instr} {c : Cipher} (hb : s.busy = false)
    (hte : s.te = false) (hd : decode w = .ok i) (hcipher : cipherOf i = some c) (hw : writesSched i = false)
    (hc : commandError i true = none)
    (hm : s.moves = [.busWrite 0x000#12 .b4 0x10000003#32, .core, .busWrite 0x000#12 .b4 w, .core]) :
    ∃ t, runSteps 4 s = .next t ∧ t.dout = cipherBlock c s.din (expand s.key) ∧ t.done = true := by
  obtain ⟨u, hexpand, hbusy, hte', hdin, hrk, hsv, hmoves⟩ := runSteps_expandKey hb hte hm
  obtain ⟨t, hrun, hdout, hdone, -⟩ := runSteps_untraced_cipher hbusy (hte'.trans hte) hd hcipher (hsv ▸ hc) hmoves
  refine ⟨t, (runSteps_add hexpand 2).trans hrun, ?_, hdone⟩
  rw [hdout, hdin, scheduleOf, hw, hrk]
  rfl

/-- Settles O42: both runs work with expand(KEY). -/
theorem storedScheduleGivesTheSameResult : Obligations.StoredScheduleGivesTheSameResult := by
  unfold Obligations.StoredScheduleGivesTheSameResult
  intro s hb hte
  obtain ⟨t, ht, htout, htdone, -⟩ := runSteps_untraced_cipher
    (s := { s with moves := [.busWrite 0x000#12 .b4 0x10100001#32, .core] }) hb hte decode_encrypt rfl rfl rfl
  obtain ⟨u, hu, huout, hudone⟩ := runSteps_expandKey_then
    (s := { s with moves :=
      [.busWrite 0x000#12 .b4 0x10000003#32, .core, .busWrite 0x000#12 .b4 0x00100004#32, .core] })
    hb hte decode_encryptRk rfl rfl rfl rfl
  obtain ⟨v, hv, hvout, hvdone, -⟩ := runSteps_untraced_cipher
    (s := { s with moves := [.busWrite 0x000#12 .b4 0x10100002#32, .core] }) hb hte decode_decrypt rfl rfl rfl
  obtain ⟨x, hx, hxout, hxdone⟩ := runSteps_expandKey_then
    (s := { s with moves :=
      [.busWrite 0x000#12 .b4 0x10000003#32, .core, .busWrite 0x000#12 .b4 0x00100005#32, .core] })
    hb hte decode_decryptRk rfl rfl rfl rfl
  exact ⟨t, u, v, x, ht, hu, hv, hx, htout.trans huout.symm, htdone, hudone, hvout.trans hxout.symm, hvdone, hxdone⟩

/-! ### Encrypt, copy, decrypt -/

/-- A word whose lanes are four successive bytes of a block. -/
theorem laneByte_word (a b c d : Byte) :
    laneByte (d ++ c ++ b ++ a) 0 = a ∧ laneByte (d ++ c ++ b ++ a) 1 = b ∧
    laneByte (d ++ c ++ b ++ a) 2 = c ∧ laneByte (d ++ c ++ b ++ a) 3 = d :=
  have lane := laneByte_packLanes (fun k => if k = 0 then a else if k = 1 then b else if k = 2 then c else d) .b4
  ⟨lane 0 (by decide), lane 1 (by decide), lane 2 (by decide), lane 3 (by decide)⟩

/-- The four word writes of a block, in order of address, leave that block whatever was there before. -/
theorem writeBytes_words (b d : Block) :
    writeBytes (writeBytes (writeBytes (writeBytes b
      0 .b4 (d[3] ++ d[2] ++ d[1] ++ d[0])) 4 .b4 (d[7] ++ d[6] ++ d[5] ++ d[4]))
      8 .b4 (d[11] ++ d[10] ++ d[9] ++ d[8])) 12 .b4 (d[15] ++ d[14] ++ d[13] ++ d[12]) = d := by
  apply Vector.ext
  intro i hi
  simp only [writeBytes, Vector.getElem_ofFn]
  interval_cases i <;> simp [Fin.le_def, Size.bytes, laneByte_word]

/-- The host's copy of a block to DIN. -/
def copyMoves (d : Block) : List Move :=
  [.busWrite 0x030#12 .b4 (d[3] ++ d[2] ++ d[1] ++ d[0]), .busWrite 0x034#12 .b4 (d[7] ++ d[6] ++ d[5] ++ d[4]),
   .busWrite 0x038#12 .b4 (d[11] ++ d[10] ++ d[9] ++ d[8]), .busWrite 0x03C#12 .b4 (d[15] ++ d[14] ++ d[13] ++ d[12])]

/-- An aligned word write to DIN at BUSY = 0, at the head of a run. -/
theorem runSteps_dinWrite (n : Nat) {s : State} {off : Offset} {data : Word} {rest : List Move} (hb : s.busy = false)
    (ha : off.toNat % 4 = 0) (hw : 0x030 ≤ off.toNat ∧ off.toNat < 0x040)
    (hm : s.moves = .busWrite off .b4 data :: rest) :
    runSteps (n + 1) s = runSteps n { s with
      moves := rest, din := writeBytes s.din (indexIn off) .b4 data, replies := s.replies ++ [replyOkay] } := by
  have hr : regionOf off = .din := regionOf_eq_din.mpr hw
  have hstep := step_busWrite_stores hm (writeFails_hostWindow hb ha (by omega) hw.2) (by simp [hr])
  rw [storeRegister, hr] at hstep
  exact runSteps_succ hstep n

/-- The copy leaves the block in DIN, and the replies are all else that it changes. -/
theorem runSteps_copy {s : State} {d : Block} {rest : List Move} (hb : s.busy = false)
    (hm : s.moves = copyMoves d ++ rest) :
    ∃ r, runSteps 4 s = .next { s with din := d, moves := rest, replies := r } := by
  have hcopied := writeBytes_words s.din d
  refine ⟨s.replies ++ [replyOkay] ++ [replyOkay] ++ [replyOkay] ++ [replyOkay], ?_⟩
  refine Eq.trans (runSteps_dinWrite 3 hb (by decide) (by decide) hm) ?_
  refine Eq.trans (runSteps_dinWrite 2 hb (by decide) (by decide) rfl) ?_
  refine Eq.trans (runSteps_dinWrite 1 hb (by decide) (by decide) rfl) ?_
  refine Eq.trans (runSteps_dinWrite 0 hb (by decide) (by decide) rfl) ?_
  conv_rhs => rw [← hcopied]
  rfl

/-- Settles O41: the copy makes DIN the ciphertext, whose decryption with the same KEY is the first DIN. -/
theorem encryptThenDecryptGivesTheBlockBack : Obligations.EncryptThenDecryptGivesTheBlockBack := by
  unfold Obligations.EncryptThenDecryptGivesTheBlockBack
  intro s hb hte hm
  obtain ⟨t, hrun, htdout, htdone, -, htkey, htbusy, htte⟩ := runSteps_untraced_cipher hb hte decode_encrypt rfl rfl hm
  obtain ⟨r, hcopy⟩ := runSteps_copy (d := t.dout)
    (s := { t with moves := copyMoves t.dout ++ [.busWrite 0x000#12 .b4 0x10100002#32, .core] }) htbusy rfl
  obtain ⟨u, hrun', hudout, hudone, huerr, hukey, -⟩ := runSteps_untraced_cipher
    (s := { t with din := t.dout, moves := [.busWrite 0x000#12 .b4 0x10100002#32, .core], replies := r })
    htbusy (htte.trans hte) decode_decrypt rfl rfl rfl
  refine ⟨t, u, hrun, (runSteps_add hcopy 2).trans hrun', ?_, hukey.trans htkey, htdone, hudone, huerr⟩
  rw [hudout]
  simp only [scheduleOf, writesSched, if_true, cipherBlock, htdout, htkey]
  exact decryptBlock_encryptBlock (expand s.key) s.din

end Sys2Proof.Machine
end

section
/-!
Traced runs: the core and the sink in turn deliver the 80 events in order and the command completes with the result of
an untraced run (44_cipher_pipeline.md R227 to R229).
-/

namespace Sys2Proof.Machine

/-- `t` is the state `a`, in which the traced command `i` was accepted, after its first `k` events have been emitted and
delivered. -/
structure Drained (c : Cipher) (i : Instr) (a t : State) (k : Nat) : Prop where
  frame : t.busy = a.busy ∧ t.lcmd = a.lcmd ∧ t.lte = a.lte ∧ t.tq = a.tq ∧ t.key = a.key ∧ t.din = a.din ∧
    t.rk = a.rk ∧ t.sv = a.sv ∧ t.ie = a.ie ∧ t.err = a.err ∧ t.errcode = a.errcode
  trace : TracedInv c i t
  count : emitted t = k
  delivered : t.delivered = a.delivered ++ (traceEvents c (scheduleOf i a) a.din).take k

theorem emitEvent_setMoves (c : Cipher) (p : PipeStep) (s : State) (l : List Move) :
    emitEvent c p { s with moves := l } = { emitEvent c p s with moves := l } := by
  unfold emitEvent
  cases s.scratch.ph <;> rfl

section Traced

variable {c : Cipher} {i : Instr} {a : State} (hb : a.busy = true) (hd : decode a.lcmd = .ok i)
  (hc : cipherOf i = some c) (hl : a.lte = true) (ht : a.tq = none)
include hb hd hc hl ht

/-- One move of the core and one of the sink emit and deliver the next event. -/
theorem Drained.next {t : State} {k : Nat} {rest : List Move} (h : Drained c i a t k) (hk : k < 80)
    (hm : t.moves = .core :: .sink :: rest) :
    ∃ u, runSteps 2 t = .next u ∧ Drained c i a u (k + 1) ∧ u.moves = rest := by
  obtain ⟨hbusy, hlcmd, hlte, htq, hkey, hdin, hrk, -⟩ := h.frame
  obtain ⟨p, hp⟩ := exists_row_of_emitted_lt c (h.count ▸ hk)
  have hsched : scheduleOf i t = scheduleOf i a := scheduleOf_congr hkey hrk
  obtain ⟨e, he⟩ : ∃ e, (traceEvents c (scheduleOf i t) t.din)[emitted t]? = some e :=
    ⟨_, List.getElem?_eq_getElem (by rwa [traceEvents_length, h.count])⟩
  have hevent : (emitEvent c p t).tq = some e := (emitEvent_tq h.trace hp).trans he
  have hcore : step t = .next { emitEvent c p t with moves := .sink :: rest } := by
    rw [step_cons hm, ← emitEvent_setMoves]
    exact (coreMove_busy (s := { t with moves := .sink :: rest }) (hbusy.trans hb) (hlcmd ▸ hd)).trans
      (exec_emits (s := { t with moves := .sink :: rest }) (hbusy.trans hb) hc (hlte.trans hl) (htq.trans ht) hp)
  have hsink : step { emitEvent c p t with moves := .sink :: rest } =
      .next { emitEvent c p t with moves := rest, tq := none, delivered := t.delivered ++ [e] } := by
    rw [step_cons rfl, runMove, sinkAccept_some (s := { emitEvent c p t with moves := rest }) hevent]
    simp
  refine ⟨_, by rw [runSteps_succ hcore, runSteps_succ hsink, runSteps_zero], ⟨?_, ?_, ?_, ?_⟩, rfl⟩
  · simpa [ht, htq] using h.frame
  · obtain ⟨hrk', hst', hle', -⟩ := emitEvent_tracedInv h.trace hp
    exact ⟨hrk', hst', hle', fun _ h => by cases h⟩
  · exact (emitted_emitEvent c p t).trans (by rw [h.count])
  · rw [h.count, hsched, hdin] at he
    simp [h.delivered, List.take_add_one, he]

theorem Drained.all {t : State} {rest : List Move} (n : Nat) {k : Nat} (h : Drained c i a t k) (hk : k + n = 80)
    (hm : t.moves = (List.replicate n [Move.core, Move.sink]).flatten ++ rest) :
    ∃ u, runSteps (2 * n) t = .next u ∧ Drained c i a u 80 ∧ u.moves = rest := by
  induction n generalizing t k with
  | zero =>
    obtain rfl : k = 80 := hk
    exact ⟨t, rfl, h, hm⟩
  | succ n ih =>
    obtain ⟨u, hrun, hu, hmu⟩ := h.next hb hd hc hl ht (by omega) hm
    obtain ⟨v, hrun', hv, hmv⟩ := ih hu (by omega) hmu
    exact ⟨v, by rw [show 2 * (n + 1) = 2 + 2 * n by omega, runSteps_add hrun, hrun'], hv, hmv⟩

end Traced

/-- With all events delivered the core completes the command. -/
theorem Drained.completes {c : Cipher} {i : Instr} {a t : State} {rest : List Move} (hb : a.busy = true)
    (hd : decode a.lcmd = .ok i) (ht : a.tq = none) (h : Drained c i a t 80) (hm : t.moves = .core :: rest) :
    runSteps 1 t = .next (completed i { t with moves := rest }) := by
  obtain ⟨hbusy, hlcmd, hlte, htq, -⟩ := h.frame
  have hseq : 40 ≤ t.seq := by
    have hcount := h.count
    have := Bool.toNat_le t.scratch.ph
    unfold emitted at hcount
    omega
  have hcore : step t = .next (completed i { t with moves := rest }) := by
    rw [step_cons hm]
    exact (coreMove_busy (s := { t with moves := rest }) (hbusy.trans hb) (hlcmd ▸ hd)).trans
      (exec_completes (s := { t with moves := rest }) (hbusy.trans hb) (wellFormed_of_decode hd)
        fun _ _ _ => ⟨htq.trans ht, hseq⟩)
  rw [runSteps_succ hcore, runSteps_zero]

/-- Right after acceptance no event is out; the moves to come do not matter. -/
theorem accepted_drained {i : Instr} {c : Cipher} (hc : cipherOf i = some c) (w : Word) (l rest : List Move)
    (s : State) :
    Drained c i (accepted w i rest s) (accepted w i l s) 0 where
  frame := by simp [accepted]
  trace := accept_tracedInv hc _
  count := by simp [emitted, accepted, acceptScratch, isPipeline_of_cipherOf hc]
  delivered := by simp [accepted]

theorem Drained.setMoves {c : Cipher} {i : Instr} {a t : State} {k : Nat} (h : Drained c i a t k) (l : List Move) :
    Drained c i a { t with moves := l } k :=
  ⟨h.frame, h.trace, h.count, h.delivered⟩

/-- The run of a traced pipeline command: its acceptance, the 80 events, and the completion from the drained state. -/
theorem runSteps_traced {s : State} {w : Word} {i : Instr} {c : Cipher} {rest : List Move} (hb : s.busy = false)
    (hte : s.te = true) (hd : decode w = .ok i) (hcipher : cipherOf i = some c) (hc : commandError i s.sv = none)
    (hm : s.moves = .busWrite 0x000#12 .b4 w :: (drainMoves ++ rest)) :
    ∃ u, runSteps 162 s = .next (completed i u) ∧ Drained c i (accepted w i rest s) u 80 ∧ u.moves = rest := by
  have hbusy : (accepted w i rest s).busy = true := by simp [accepted]
  have hlcmd : decode (accepted w i rest s).lcmd = .ok i := by simpa [accepted, encode_of_decode hd] using hd
  have htraced : (accepted w i rest s).lte = true := by simp [accepted, hte]
  have htq : (accepted w i rest s).tq = none := by simp [accepted]
  have hmoves : (accepted w i (drainMoves ++ rest) s).moves =
      (List.replicate 80 [Move.core, Move.sink]).flatten ++ (.core :: rest) := by
    have hlisted : (accepted w i (drainMoves ++ rest) s).moves = drainMoves ++ rest := rfl
    rw [hlisted, drainMoves, List.append_assoc, List.singleton_append]
  obtain ⟨u, hrun, hu, hmu⟩ :=
    (accepted_drained hcipher w (drainMoves ++ rest) rest s).all hbusy hlcmd hcipher htraced htq 80 rfl hmoves
  refine ⟨{ u with moves := rest }, ?_, hu.setMoves rest, rfl⟩
  calc
    _ = runSteps 161 (accepted w i (drainMoves ++ rest) s) := runSteps_succ (step_accepted hb hd hc hm) 161
    _ = runSteps 1 u := runSteps_add hrun 1
    _ = _ := hu.completes hbusy hlcmd htq hmu

/-! ### The result of the run -/

/-- A pipeline command that passes dispatch with the stored schedule has SV = 1. -/
theorem sv_of_stored {i : Instr} {c : Cipher} {sv : Bool} (hcipher : cipherOf i = some c)
    (hc : commandError i sv = none) (hw : writesSched i = false) : sv = true := by
  have hneeds : needsSched i = true := by
    cases i <;> simp_all [cipherOf, writesSched, needsSched]
  obtain ⟨-, -, -, hsv⟩ := commandError_eq_none.mp hc
  exact hsv hneeds

/-- What a pipeline command that was accepted in the state `s` leaves, traced or not. -/
def CipherResult (c : Cipher) (i : Instr) (s t : State) : Prop :=
  t.dout = cipherBlock c s.din (scheduleOf i s) ∧ t.st = decodeBlock (cipherBlock c s.din (scheduleOf i s)) ∧
  t.rk = scheduleOf i s ∧ t.sv = true ∧ t.busy = false ∧ t.done = true ∧ t.err = false ∧ t.errcode = .noError ∧
  t.ie = s.ie

/-- A completion leaves that result if, since acceptance, nothing has changed but the progress of the trace. -/
theorem completed_cipherResult {s u : State} {w : Word} {i : Instr} {c : Cipher} {rest : List Move} {k : Nat}
    (hcipher : cipherOf i = some c) (hc : commandError i s.sv = none) (h : Drained c i (accepted w i rest s) u k) :
    CipherResult c i s (completed i u) := by
  obtain ⟨-, -, -, -, hkey, hdin, hrk, hsv, hie, herr, hcode⟩ := h.frame
  have hsched : scheduleOf i u = scheduleOf i s := (scheduleOf_congr hkey hrk).trans (scheduleOf_accepted w i rest s)
  have hdin' : u.din = s.din := by simpa [accepted] using hdin
  obtain ⟨hst, hdout, -⟩ := completed_cipher hcipher u
  obtain ⟨hrk', hsv'⟩ := completed_schedule i u
  rw [hsched, hdin'] at hst hdout
  refine ⟨by rw [hdout, encodeState_decodeBlock], hst, hrk'.trans hsched, ?_, ?_⟩
  · rw [hsv', hsv]
    cases hw : writesSched i with
    | true => rfl
    | false => simp [accepted, hw, sv_of_stored hcipher hc hw]
  · simp [completed_frame, herr, hcode, hie, accepted]

/-- Settles O28: the drained state has delivered all 80 events, and its completion leaves the result. -/
theorem tracedRunDeliversAndCompletes : Obligations.TracedRunDeliversAndCompletes := by
  unfold Obligations.TracedRunDeliversAndCompletes
  intro s w i c rest hb hte hd hcipher hc hm
  obtain ⟨u, hrun, hu, hmoves⟩ := runSteps_traced hb hte hd hcipher hc hm
  obtain ⟨hdout, hst, hrk, hsv, hbusy, hdone, -⟩ := completed_cipherResult hcipher hc hu
  have hdelivered : u.delivered = s.delivered ++ traceEvents c (scheduleOf i s) s.din := by
    rw [hu.delivered, scheduleOf_accepted, List.take_of_length_le (by rw [traceEvents_length])]
    simp [accepted]
  exact ⟨completed i u, hrun, by simpa [completed_frame] using hdelivered, hdout, hst, hrk, hsv, hbusy, hdone,
    by simpa [completed_frame] using hmoves⟩

theorem CipherResult.statusWord_eq {c : Cipher} {i : Instr} {s t u : State} (ht : CipherResult c i s t)
    (hu : CipherResult c i s u) : t.statusWord = u.statusWord := by
  obtain ⟨-, -, -, hsv, hbusy, hdone, herr, hcode, hie⟩ := ht
  obtain ⟨-, -, -, hsv', hbusy', hdone', herr', hcode', hie'⟩ := hu
  simp only [State.statusWord, State.irq, hsv, hbusy, hdone, herr, hcode, hie, hsv', hbusy', hdone', herr', hcode',
    hie']

/-- Settles O29: both runs leave the same result, and the untraced one emits nothing. -/
theorem tracingNeverChangesTheResult : Obligations.TracingNeverChangesTheResult := by
  unfold Obligations.TracingNeverChangesTheResult
  intro s w i c hb hd hcipher hc
  obtain ⟨v, hrun, hv, -⟩ := runSteps_traced (rest := [])
    (s := { s with te := true, moves := .busWrite 0x000#12 .b4 w :: drainMoves }) hb rfl hd hcipher hc
    (by rw [List.append_nil])
  have ht : CipherResult c i s (completed i v) := completed_cipherResult
    (s := { s with te := true, moves := .busWrite 0x000#12 .b4 w :: drainMoves }) hcipher hc hv
  have hrun' := runSteps_untraced (rest := [])
    (s := { s with te := false, moves := [.busWrite 0x000#12 .b4 w, .core] }) hb hd hc rfl rfl
  have hu : CipherResult c i s (completed i (accepted w i []
      { s with te := false, moves := [.busWrite 0x000#12 .b4 w, .core] })) :=
    completed_cipherResult (s := { s with te := false, moves := [.busWrite 0x000#12 .b4 w, .core] }) hcipher hc
      (accepted_drained hcipher w [] [] _)
  have ⟨htdout, htst, htrk, htsv, htbusy, _⟩ := ht
  have ⟨hudout, hust, hurk, husv, _⟩ := hu
  exact ⟨_, _, hrun, hrun', htdout.trans hudout.symm, htst.trans hust.symm, htrk.trans hurk.symm, htsv.trans husv.symm,
    ht.statusWord_eq hu, by simp [completed_accepted_frame], htbusy⟩

end Sys2Proof.Machine
end
